-- ==== Sys2Proof/Word.lean ====
section
/-! DEFINITION. The widths of the block's values (00_scope.md R7) and the data that both its commands and its
state speak of: pixels (R23), resolved pins (R28) and real durations (R10). -/

namespace Sys2Proof

/-- `u8`: a component, a brightness, a handle, an opcode, a wire byte (R7). -/
abbrev Byte := BitVec 8

/-- `u16`: a pixel count, a width, a command word (R7, R57). -/
abbrev Half := BitVec 16

/-- `u32`: a tick, a speed, a byte offset, a fill colour before clamping (R7). -/
abbrev Word := BitVec 32

/-- A channel handle operand is a `u8` (R17). -/
abbrev Handle := Byte

/-- A duration, in nanoseconds. The spec's durations are real numbers (R10); the model keeps exact rationals, so
that a state is plain data. DESIGN CHOICE, unsafe in principle (notes/assumptions/10.md). -/
abbrev Time := ℚ

/-- One pixel of a buffer: three 8-bit components (R23). -/
structure Pixel where
  r : Byte
  g : Byte
  b : Byte
deriving DecidableEq, Repr

/-- The zero pixel of a fresh buffer (R23). -/
def Pixel.black : Pixel := ⟨0, 0, 0⟩

/-- A resolved pin: a hardware port and a bit of it (R28). The spec gives neither a width; both are plain numbers.
DESIGN CHOICE, safe (notes/assumptions/17.md). -/
structure Pin where
  port : Nat
  bit : Nat
deriving DecidableEq, Repr

/-- An opaque platform pin token (R18, R28): nothing but its identity is known of it. -/
structure PinToken where
  id : Nat
deriving DecidableEq, Repr

end Sys2Proof
end

