-- ==== Sys2Proof/Syntax.lean ====
section
/-! DEFINITION. The command syntax of 30_encoding.md, part 1: what the host hands over (a command word and its
operands, R57, R58) and what it means as a command (`Instr`, one constructor per row of the opcode map, R59). -/

namespace Sys2Proof

/-- A buffer reference `(handle, generation)`, as GET_BUFFER returns it (R24, R80). The generation is a natural
number (R18). -/
structure BufRef where
  handle : Handle
  gen : Nat
deriving DecidableEq, Repr

/-- One operand of a command, of one of the types R58 lists. -/
inductive Operand where
  | u8 (v : Byte)
  | u16 (v : Half)
  | u32 (v : Word)
  | pin (p : PinToken)
  | ref (r : BufRef)
deriving DecidableEq, Repr

/-- The type of an operand. -/
inductive OperandKind where
  | u8 | u16 | u32 | pin | ref
deriving DecidableEq, Repr

/-- A command as the host issues it: a 16-bit command word followed by its operands (R57). The spec gives no byte
encoding of the operands, so they stay values of their types. DESIGN CHOICE, safe (notes/assumptions/2.md). -/
structure Command where
  cw : Half
  operands : List Operand
deriving DecidableEq, Repr

/-- The formats of R58. -/
inductive Format where
  | n | h | cfg | fill | br | bw | es | ews | ergbs | ebs
deriving DecidableEq, Repr

/-- The commands' names: the rows of the opcode map (R59). -/
inductive Opcode where
  | configure | lookup | getLedCount | getBuffer | bufRead | bufWrite
  | ledOff | ledRed | ledGreen | ledBlue | ledFill
  | encodeAndSend | sendAll
  | rainbow | rainbowCycle | rainbows | theaterChase | colorWipe | pulse | flash | tick
deriving DecidableEq, Repr

/-- A decoded command: one constructor per row of spec/opcode_table.json, its operands in format order (R58, R59).
The formats that ignore `H` (`N`, `BR`, `BW`) carry no handle. -/
inductive Instr where
  | configure (h : Handle) (pin : PinToken) (pixelCount : Half) (brightness : Byte)
  | lookup (h : Handle)
  | getLedCount (h : Handle)
  | getBuffer (h : Handle)
  | bufRead (ref : BufRef) (a : Word)
  | bufWrite (ref : BufRef) (a : Word) (v : Byte)
  | ledOff (h : Handle)
  | ledRed (h : Handle)
  | ledGreen (h : Handle)
  | ledBlue (h : Handle)
  | ledFill (h : Handle) (r g b : Word)
  | encodeAndSend (h : Handle)
  | sendAll
  | rainbow (h : Handle) (speed : Word)
  | rainbowCycle (h : Handle) (speed : Word)
  | rainbows (h : Handle) (width : Half) (speed : Word)
  | theaterChase (h : Handle) (r g b : Byte) (speed : Word)
  | colorWipe (h : Handle) (r g b : Byte) (speed : Word)
  | pulse (h : Handle) (r g b : Byte) (speed : Word)
  | flash (h : Handle) (v : Byte) (speed : Word)
  | tick
deriving DecidableEq, Repr

end Sys2Proof
end

