-- ==== Sys2Proof/WellFormed.lean ====
section
/-! DEFINITION. When operands fit a format (R58): their number, their order and their types. Every value of an
operand's type is well formed (R60), so an `Instr` needs no check of its own: what can be ill formed is the command
the host hands over (`Command.wellFormed`, in Decode.lean, adds that its opcode is assigned). -/

namespace Sys2Proof

/-- The type of an operand value. -/
def Operand.kind : Operand → OperandKind
  | .u8 _ => .u8
  | .u16 _ => .u16
  | .u32 _ => .u32
  | .pin _ => .pin
  | .ref _ => .ref

/-- The operand types of a format, in order: the table of R58. -/
def Format.kinds : Format → List OperandKind
  | .n => []
  | .h => []
  | .cfg => [.pin, .u16, .u8]
  | .fill => [.u32, .u32, .u32]
  | .br => [.ref, .u32]
  | .bw => [.ref, .u32, .u8]
  | .es => [.u32]
  | .ews => [.u16, .u32]
  | .ergbs => [.u8, .u8, .u8, .u32]
  | .ebs => [.u8, .u32]

/-- The operands are those the format lists: none missing, none left over, each of its type, in order. -/
def Format.accepts (f : Format) (ops : List Operand) : Bool :=
  decide (ops.map Operand.kind = f.kinds)

end Sys2Proof
end

