-- ==== Sys2Proof/Decode.lean ====
section
/-! DEFINITION. The command decoder and encoder (30_encoding.md, R57 to R62, R71): total on every command, rejecting by
name. -/

namespace Sys2Proof

/-- The opcode map (R59). -/
def Opcode.toByte : Opcode → Byte
  | .configure => 0x01
  | .lookup => 0x02
  | .getLedCount => 0x03
  | .getBuffer => 0x04
  | .bufRead => 0x05
  | .bufWrite => 0x06
  | .ledOff => 0x10
  | .ledRed => 0x11
  | .ledGreen => 0x12
  | .ledBlue => 0x13
  | .ledFill => 0x14
  | .encodeAndSend => 0x20
  | .sendAll => 0x21
  | .rainbow => 0x30
  | .rainbowCycle => 0x31
  | .rainbows => 0x32
  | .theaterChase => 0x33
  | .colorWipe => 0x34
  | .pulse => 0x35
  | .flash => 0x36
  | .tick => 0x3F

/-- The opcode map read the other way (R59); every other value is unassigned (R71). -/
def Opcode.ofByte (op : Byte) : Option Opcode :=
  match op.toNat with
  | 0x01 => some .configure
  | 0x02 => some .lookup
  | 0x03 => some .getLedCount
  | 0x04 => some .getBuffer
  | 0x05 => some .bufRead
  | 0x06 => some .bufWrite
  | 0x10 => some .ledOff
  | 0x11 => some .ledRed
  | 0x12 => some .ledGreen
  | 0x13 => some .ledBlue
  | 0x14 => some .ledFill
  | 0x20 => some .encodeAndSend
  | 0x21 => some .sendAll
  | 0x30 => some .rainbow
  | 0x31 => some .rainbowCycle
  | 0x32 => some .rainbows
  | 0x33 => some .theaterChase
  | 0x34 => some .colorWipe
  | 0x35 => some .pulse
  | 0x36 => some .flash
  | 0x3F => some .tick
  | _ => none

/-- The format of each opcode (R58, R59). -/
def Opcode.format : Opcode → Format
  | .configure => .cfg
  | .bufRead => .br
  | .bufWrite => .bw
  | .ledFill => .fill
  | .sendAll => .n
  | .tick => .n
  | .rainbow => .es
  | .rainbowCycle => .es
  | .rainbows => .ews
  | .theaterChase => .ergbs
  | .colorWipe => .ergbs
  | .pulse => .ergbs
  | .flash => .ebs
  | .lookup => .h
  | .getLedCount => .h
  | .getBuffer => .h
  | .ledOff => .h
  | .ledRed => .h
  | .ledGreen => .h
  | .ledBlue => .h
  | .encodeAndSend => .h

/-- `OP = CW[7:0]` (R57). -/
def Command.op (c : Command) : Byte := c.cw.setWidth 8

/-- `H = CW[15:8]` (R57). -/
def Command.h (c : Command) : Handle := (c.cw >>> 8).setWidth 8

/-- The command word with `H` in bits 15 to 8 and `OP` in bits 7 to 0 (R57). -/
def commandWord (op : Opcode) (h : Handle) : Half := h.setWidth 16 <<< 8 ||| op.toByte.setWidth 16

/-- A well-formed command: its opcode is assigned (R59) and its operands are those of the opcode's format (R58). -/
def Command.wellFormed (c : Command) : Bool :=
  match Opcode.ofByte c.op with
  | some op => op.format.accepts c.operands
  | none => false

/-- Why a command is no instruction. -/
inductive DecodeError where
  /-- the opcode is not in the map (R71) -/
  | unassignedOpcode (op : Byte)
  /-- the operands are not those of the opcode's format (R58) -/
  | malformedOperands (op : Byte)
deriving DecidableEq, Repr

/-- Formats `N` and `H`: no operands (R58). -/
def readNone (i : Instr) : List Operand → Option Instr
  | [] => some i
  | _ => none

/-- Format `CFG` (R58). -/
def readCfg (f : PinToken → Half → Byte → Instr) : List Operand → Option Instr
  | [.pin p, .u16 n, .u8 br] => some (f p n br)
  | _ => none

/-- Format `FILL` (R58). -/
def readFill (f : Word → Word → Word → Instr) : List Operand → Option Instr
  | [.u32 r, .u32 g, .u32 b] => some (f r g b)
  | _ => none

/-- Format `BR` (R58). -/
def readBr (f : BufRef → Word → Instr) : List Operand → Option Instr
  | [.ref r, .u32 a] => some (f r a)
  | _ => none

/-- Format `BW` (R58). -/
def readBw (f : BufRef → Word → Byte → Instr) : List Operand → Option Instr
  | [.ref r, .u32 a, .u8 v] => some (f r a v)
  | _ => none

/-- Format `ES` (R58). -/
def readEs (f : Word → Instr) : List Operand → Option Instr
  | [.u32 speed] => some (f speed)
  | _ => none

/-- Format `EWS` (R58). -/
def readEws (f : Half → Word → Instr) : List Operand → Option Instr
  | [.u16 width, .u32 speed] => some (f width speed)
  | _ => none

/-- Format `ERGBS` (R58). -/
def readErgbs (f : Byte → Byte → Byte → Word → Instr) : List Operand → Option Instr
  | [.u8 r, .u8 g, .u8 b, .u32 speed] => some (f r g b speed)
  | _ => none

/-- Format `EBS` (R58). -/
def readEbs (f : Byte → Word → Instr) : List Operand → Option Instr
  | [.u8 v, .u32 speed] => some (f v speed)
  | _ => none

/-- The instruction of an assigned opcode, a handle field and operands that fit the opcode's format (R58 to R60). -/
def decodeOperands (op : Opcode) (h : Handle) (ops : List Operand) : Option Instr :=
  match op with
  | .configure => readCfg (.configure h) ops
  | .lookup => readNone (.lookup h) ops
  | .getLedCount => readNone (.getLedCount h) ops
  | .getBuffer => readNone (.getBuffer h) ops
  | .bufRead => readBr .bufRead ops
  | .bufWrite => readBw .bufWrite ops
  | .ledOff => readNone (.ledOff h) ops
  | .ledRed => readNone (.ledRed h) ops
  | .ledGreen => readNone (.ledGreen h) ops
  | .ledBlue => readNone (.ledBlue h) ops
  | .ledFill => readFill (.ledFill h) ops
  | .encodeAndSend => readNone (.encodeAndSend h) ops
  | .sendAll => readNone .sendAll ops
  | .rainbow => readEs (.rainbow h) ops
  | .rainbowCycle => readEs (.rainbowCycle h) ops
  | .rainbows => readEws (.rainbows h) ops
  | .theaterChase => readErgbs (.theaterChase h) ops
  | .colorWipe => readErgbs (.colorWipe h) ops
  | .pulse => readErgbs (.pulse h) ops
  | .flash => readEbs (.flash h) ops
  | .tick => readNone .tick ops

/-- The decoder: total on every command. -/
def decode (c : Command) : Except DecodeError Instr :=
  match Opcode.ofByte c.op with
  | none => .error (.unassignedOpcode c.op)
  | some op =>
    match decodeOperands op c.h c.operands with
    | some i => .ok i
    | none => .error (.malformedOperands c.op)

/-- The encoder (R57, R58). The formats that ignore `H` get a zero there. -/
def encode : Instr → Command
  | .configure h p n br => ⟨commandWord .configure h, [.pin p, .u16 n, .u8 br]⟩
  | .lookup h => ⟨commandWord .lookup h, []⟩
  | .getLedCount h => ⟨commandWord .getLedCount h, []⟩
  | .getBuffer h => ⟨commandWord .getBuffer h, []⟩
  | .bufRead r a => ⟨commandWord .bufRead 0, [.ref r, .u32 a]⟩
  | .bufWrite r a v => ⟨commandWord .bufWrite 0, [.ref r, .u32 a, .u8 v]⟩
  | .ledOff h => ⟨commandWord .ledOff h, []⟩
  | .ledRed h => ⟨commandWord .ledRed h, []⟩
  | .ledGreen h => ⟨commandWord .ledGreen h, []⟩
  | .ledBlue h => ⟨commandWord .ledBlue h, []⟩
  | .ledFill h r g b => ⟨commandWord .ledFill h, [.u32 r, .u32 g, .u32 b]⟩
  | .encodeAndSend h => ⟨commandWord .encodeAndSend h, []⟩
  | .sendAll => ⟨commandWord .sendAll 0, []⟩
  | .rainbow h sp => ⟨commandWord .rainbow h, [.u32 sp]⟩
  | .rainbowCycle h sp => ⟨commandWord .rainbowCycle h, [.u32 sp]⟩
  | .rainbows h w sp => ⟨commandWord .rainbows h, [.u16 w, .u32 sp]⟩
  | .theaterChase h r g b sp => ⟨commandWord .theaterChase h, [.u8 r, .u8 g, .u8 b, .u32 sp]⟩
  | .colorWipe h r g b sp => ⟨commandWord .colorWipe h, [.u8 r, .u8 g, .u8 b, .u32 sp]⟩
  | .pulse h r g b sp => ⟨commandWord .pulse h, [.u8 r, .u8 g, .u8 b, .u32 sp]⟩
  | .flash h v sp => ⟨commandWord .flash h, [.u8 v, .u32 sp]⟩
  | .tick => ⟨commandWord .tick 0, []⟩

/-! ### The opcode table's words -/

/-- The operand of a type whose bits are all zero. -/
def OperandKind.zero : OperandKind → Operand
  | .u8 => .u8 0
  | .u16 => .u16 0
  | .u32 => .u32 0
  | .pin => .pin ⟨0⟩
  | .ref => .ref ⟨0, 0⟩

/-- The command of a table word: the word is `CW`, and the operands its format lists are zero. -/
def Command.ofTableWord (nbits w : Nat) : Command :=
  let cw : Half := .ofNat 16 (w % 2 ^ nbits)
  ⟨cw, match Opcode.ofByte (cw.setWidth 8) with
    | some op => op.format.kinds.map OperandKind.zero
    | none => []⟩

/-- The instruction the decoder reads from a table word followed by zero operands. -/
def decodeTableWord (nbits w : Nat) : Option Instr := (decode (Command.ofTableWord nbits w)).toOption

end Sys2Proof
end

