-- ==== Sys2Proof/Config.lean ====
section
/-! DEFINITION. The implementation parameters of 00_scope.md R6: the values the spec takes, and, for what it leaves
open, constants with no body, so that no proof can see a value of them. Each open constant keeps the limits the spec
sets on it. -/

namespace Sys2Proof

/-! ### Parameters the spec gives a value: DESIGN CHOICE, unsafe for another build (notes/assumptions/12.md) -/

/-- `MAX_CHANNELS`: the registry's capacity (R6, R16, D2). -/
def Config.maxChannels : Nat := 4

/-- `GB_OFFSET`: subtracted from the brightness for green and blue (R6, R93, D8). -/
def Config.gbOffset : Nat := 100

/-- `FILL_SENDS`: whether a solid fill transmits (R6, R85, D19). The fill itself takes this as an argument
(`Machine.State.fillWith`), so that a claim can quantify over it. -/
def Config.fillSends : Bool := true

/-- `MapFn`, at this spec's value: `floor(v * m / 255)` (R6, R94, D7). The encoder takes it as an argument
(`Machine.Slot.wireByteWith`), so that a claim can quantify over it. -/
def Config.mapFn (v m : Nat) : Nat := v * m / 255

/-! ### The intervals -/

/-- The timing parameters of R6, with the conditions the spec puts on them: a long interval is longer than a short
one (R68), the overhead between symbols stays under the strip's threshold (R6), and every latch reaches that threshold,
the shortest that the tolerance admits too (R69's guarantee, R103, R162). -/
structure Timing where
  /-- `T_SHORT` -/
  tShort : Time
  /-- `T_LONG` -/
  tLong : Time
  /-- `T_LATCH` -/
  tLatch : Time
  /-- `T_RESET_MIN` -/
  tResetMin : Time
  /-- `TOL` -/
  tol : Time
  /-- `T_GAP_MAX` -/
  tGapMax : Time
  short_pos : 0 < tShort
  short_lt_long : tShort < tLong
  reset_pos : 0 < tResetMin
  tol_nonneg : 0 ≤ tol
  latch_guard : tResetMin ≤ tLatch - tol
  gap_nonneg : 0 ≤ tGapMax
  gap_lt : tGapMax < tResetMin

/-- R103: the nominal latch reaches the strip's threshold. -/
theorem Timing.latch_ge (T : Timing) : T.tResetMin ≤ T.tLatch := by linarith [T.latch_guard, T.tol_nonneg]

/-- `T_BIT = T_SHORT + T_LONG` (R6, C1). -/
def Timing.tBit (T : Timing) : Time := T.tShort + T.tLong

/-- The reference build's nominal figures (R6, R165). `TOL` and `T_GAP_MAX`, which R6 leaves open, stand at zero
here only because a value of the type must name some. -/
def Config.referenceTiming : Timing where
  tShort := 400
  tLong := 800
  tLatch := 150000
  tResetMin := 50000
  tol := 0
  tGapMax := 0
  short_pos := by norm_num
  short_lt_long := by norm_num
  reset_pos := by norm_num
  tol_nonneg := le_refl _
  latch_guard := by norm_num
  gap_nonneg := le_refl _
  gap_lt := by norm_num

/-- Some timing: any value of the parameters (D9, D10, D43, D49 leave them open) within the conditions. DESIGN CHOICE,
safe (notes/assumptions/13.md). -/
opaque Config.someTiming [Inhabited Timing] : Timing

/-- The timing of the machine: open, known only to meet the conditions of `Timing`. -/
def Config.timing : Timing := @Config.someTiming ⟨Config.referenceTiming⟩

/-- The draws a segment's real duration is made of (R143, R162), one per emitted segment. -/
structure Draws where
  /-- the interval drawn around the nominal one (R162, `TOL`) -/
  interval : Nat → Time
  /-- the loop and fetch overhead after a symbol (R162, `T_GAP_MAX`) -/
  overhead : Nat → Time
  /-- the stall of the executing context (R143) -/
  stall : Nat → Time
  /-- the length of a low interval between commands, set by the host (R34) -/
  idle : Nat → Time
deriving Inhabited

/-- FREE VALUE: the draws of R162, of which nothing is known (notes/assumptions/4.md). -/
opaque Config.draws : Draws

/-- `F_CLK`: the CPU clock, in hertz (R6, D47). Open, and no functional rule depends on it. -/
opaque Config.fClk : Nat

/-- `N_SHORT`: the busy-wait count of a short interval (R6, R97, D47). Open, and no functional rule depends on it. -/
opaque Config.nShort : Nat

/-- `N_LONG`: the busy-wait count of a long interval (R6, R97, D47). Open, and no functional rule depends on it. -/
opaque Config.nLong : Nat

/-! ### The platform -/

/-- `PinResolvable` and `Resolve` in one (R6, R148): a token is resolvable if and only if this answers a pin.
DESIGN CHOICE, unsafe for a resolver that changes its mind (notes/assumptions/16.md). -/
opaque Config.resolve : PinToken → Option Pin

/-- FREE VALUE: `AllocOK`, the allocator's answer to its k-th request, for a number of pixels (R6, R27, D44;
notes/assumptions/7.md). -/
opaque Config.allocOk : Nat → Half → Bool

/-! ### The hue wheel -/

/-- A component of the wheel is linear from index `lo` to index `hi`, up to rounding (R122). -/
def RampUpToRounding (f : Byte → Byte) (lo hi : Nat) : Prop :=
  ∃ a b : ℚ, ∀ p : Byte, lo ≤ p.toNat → p.toNat ≤ hi → |((f p).toNat : ℚ) - (a + b * p.toNat)| < 1

/-- What R122 settles of `WheelFn`: `Wheel(0) = (0, 255, 0)`; three linear ramps, each component linear up to
rounding, that meet at 85 and at 170 (a ramp reaches the next one's first index). -/
structure Wheel where
  color : Byte → Pixel
  at_zero : color 0 = ⟨0, 255, 0⟩
  ramps : ∀ c ∈ [Pixel.r, Pixel.g, Pixel.b],
    RampUpToRounding (fun p => c (color p)) 0 85 ∧ RampUpToRounding (fun p => c (color p)) 85 170 ∧
      RampUpToRounding (fun p => c (color p)) 170 255

/-- The candidate wheel of R123: three ramps of slope 3. It shows that a wheel with the properties exists, and serves
the vectors that 95_test_vectors.md marks as depending on it; the machine's own wheel is `Config.wheel`. -/
def Config.candidateWheel (p : Byte) : Pixel :=
  let i := p.toNat
  if i < 85 then ⟨.ofNat 8 (3 * i), .ofNat 8 (255 - 3 * i), 0⟩
  else if i < 170 then ⟨.ofNat 8 (255 - 3 * (i - 85)), 0, .ofNat 8 (3 * (i - 85))⟩
  else ⟨0, .ofNat 8 (3 * (i - 170)), .ofNat 8 (255 - 3 * (i - 170))⟩

/-- A component that is exactly linear on a segment is linear there up to rounding. -/
theorem RampUpToRounding.of_exact (f : Byte → Byte) (lo hi : Nat) (a b : ℤ)
    (h : ∀ p : Byte, lo ≤ p.toNat → p.toNat ≤ hi → ((f p).toNat : ℤ) = a + b * p.toNat) :
    RampUpToRounding f lo hi := by
  refine ⟨a, b, fun p h1 h2 => ?_⟩
  have e' : ((f p).toNat : ℚ) = (a : ℚ) + b * p.toNat := by exact_mod_cast h p h1 h2
  rw [e']
  simp

/-- The candidate of R123 has the properties of R122. -/
def Config.candidate : Wheel where
  color := Config.candidateWheel
  at_zero := by decide
  ramps := by
    intro c hc
    simp only [List.mem_cons, List.not_mem_nil, or_false] at hc
    rcases hc with rfl | rfl | rfl
    · refine ⟨.of_exact _ 0 85 0 3 ?_, .of_exact _ 85 170 510 (-3) ?_, .of_exact _ 170 255 0 0 ?_⟩ <;>
        · intro p h1 h2
          simp only [Config.candidateWheel]
          split_ifs <;> simp only [BitVec.toNat_ofNat, BitVec.ofNat_eq_ofNat] <;> omega
    · refine ⟨.of_exact _ 0 85 255 (-3) ?_, .of_exact _ 85 170 0 0 ?_, .of_exact _ 170 255 (-510) 3 ?_⟩ <;>
        · intro p h1 h2
          simp only [Config.candidateWheel]
          split_ifs <;> simp only [BitVec.toNat_ofNat, BitVec.ofNat_eq_ofNat] <;> omega
    · refine ⟨.of_exact _ 0 85 0 0 ?_, .of_exact _ 85 170 (-255) 3 ?_, .of_exact _ 170 255 765 (-3) ?_⟩ <;>
        · intro p h1 h2
          simp only [Config.candidateWheel]
          split_ifs <;> simp only [BitVec.toNat_ofNat, BitVec.ofNat_eq_ofNat] <;> omega

/-- Some wheel with the properties of R122. -/
opaque Config.someWheel [Inhabited Wheel] : Wheel

/-- FREE VALUE: `WheelFn` (R6, R122, D31), known only to have the properties of `Wheel`. DEDUCED, unsafe for a
claim that uses them (notes/assumptions/18.md). -/
def Config.wheel : Wheel := @Config.someWheel ⟨Config.candidate⟩

end Sys2Proof
end

