-- ==== Sys2Proof/Machine/State.lean ====
section
/-! DEFINITION. The state of the block and of its host agent (10_state.md, R15 to R38; 46_host_scheduler.md, R113 to
R115), as plain data, and the state after reset (R38, R152). -/

namespace Sys2Proof.Machine

/-! ### Lines and segments -/

/-- The level the block drives on a pin (R30). A pin with no level of its own in the state is `UNDRIVEN`. -/
inductive Level where
  | high | low
deriving DecidableEq, Repr

/-- The class of a segment (R34). -/
inductive SegClass where
  | short | long | latch | idle
deriving DecidableEq, Repr

/-- One segment of a pin's waveform log: `(level, class, d)` (R34). `seq` is the model's own: the number of the draw
that made the segment, so that segments of different pins are ordered in time (R52). DESIGN CHOICE, safe
(notes/assumptions/5.md). -/
structure Segment where
  level : Level
  cls : SegClass
  d : Time
  seq : Nat
deriving DecidableEq, Repr

/-- A map from pins to values, listed by strictly rising pin; an unlisted pin has no value. DESIGN CHOICE, safe
(notes/assumptions/14.md). -/
abbrev PinMap (α : Type) := List (Pin × α)

/-! ### The engine's sequencer -/

/-- The three components of a pixel in wire order (R65): 0 green, 1 red, 2 blue. -/
inductive WireSlot where
  | green | red | blue
deriving DecidableEq, Repr

/-- The phase of a symbol, or the latch after the last one (R29). -/
inductive Phase where
  | high | low | latch
deriving DecidableEq, Repr

/-- A position of the sequencer: channel, pixel, component slot, bit, phase (R29). -/
structure Pos where
  h : Handle
  i : Nat
  k : WireSlot
  j : Fin 8
  phase : Phase
deriving DecidableEq, Repr

/-- The engine's sequencer (R29): `IDLE` between commands. -/
inductive Sequencer where
  | idle
  | at (pos : Pos)
deriving DecidableEq, Repr

/-! ### The registry -/

/-- A pixel buffer: one channel's pixels in strip order (R23, R26). It is the block's only memory (R39).
DESIGN CHOICE, safe (notes/assumptions/14.md). -/
abbrev Buffer := List Pixel

/-- One slot of the registry: the fields of R18, in its order. -/
structure Slot where
  active : Bool
  pin : PinToken
  portBit : Pin
  pixelCount : Half
  brightness : Byte
  buffer : Option Buffer
  gen : Nat
deriving DecidableEq, Repr

/-- The inert slot of reset (R38). `active`, `buffer` and `gen` are the spec's; it gives the other fields no value and
no command reads them (R20). DESIGN CHOICE, unsafe (notes/assumptions/6.md). -/
def Slot.inert : Slot := ⟨false, ⟨0⟩, ⟨0, 0⟩, 0, 0, none, 0⟩

/-! ### The host agent -/

/-- The effect commands, each with its own animation record (R115). -/
inductive Effect where
  | rainbow | rainbowCycle | rainbows | theaterChase | colorWipe | pulse | flash
deriving DecidableEq, Repr

/-- The oscillation direction of an animation (R115). -/
inductive Dir where
  | up | down
deriving DecidableEq, Repr

/-- An animation record `(last, cursor, dir)` (R115). -/
structure AnimRec where
  last : Word
  cursor : Int
  dir : Dir
deriving DecidableEq, Repr

/-- The record of reset (R115). -/
def AnimRec.initial : AnimRec := ⟨0, 0, .up⟩

/-! ### Outcomes -/

/-- The faults. The spec gives those of R139 an effect, the mark `faulted` and nothing else (R35, R145), so a faulting
command answers a next state in which its reason stands in `result`: DEDUCED, unsafe (notes/assumptions/3.md). `stuck`
alone is answered as the host's `Outcome.fault`, by `step`. -/
inductive Fault where
  /-- BUF_READ and BUF_WRITE, where the reference is not live (R81). Safe: nothing is read or written. -/
  | staleBufferReference (h : Handle) (gen : Nat)
  /-- BUF_READ and BUF_WRITE, where the offset is past the buffer (R82, R83). Safe: nothing is read or written. -/
  | bufferOutOfBounds (h : Handle) (a : Word)
  /-- RAINBOWS on a valid handle, where the width is zero (R126). Safe: nothing is written. -/
  | zeroWidth
  /-- Raised by `step` for a command during which the executing context stalls for ever (U24, R143): the command does not
  end and no later command runs. Safe: the run stops (notes/assumptions/21.md). -/
  | stuck
deriving DecidableEq, Repr

/-- The refusals. -/
inductive Refusal where
  /-- Raised by `exec` for an instruction that has no meaning yet. Safe: the run stops. -/
  | notModelled (mnemonic : String)
  /-- A command word that names no command (R71, R139). The spec gives this refusal an effect, the mark `refused`, so
  it stands in `result` of a next state. Safe: nothing else changes. -/
  | unassignedOpcode (op : Byte)
  /-- Raised by `step` for a command whose operands are not those of its opcode's format (R58): no command of the
  spec. Safe: the run stops (notes/assumptions/2.md). -/
  | malformedOperands (op : Byte)
deriving DecidableEq, Repr

/-- How the last command ended (R9): the value it returned to the host, a fault or a refusal. -/
inductive Result where
  /-- it returned nothing (or no command has run yet) -/
  | nothing
  /-- CONFIGURE's boolean (R74) -/
  | success (b : Bool)
  /-- LOOKUP's channel or none (R76) -/
  | channel (o : Option Handle)
  /-- GET_LED_COUNT's count (R78) -/
  | count (n : Word)
  /-- GET_BUFFER's reference or none (R80) -/
  | reference (o : Option BufRef)
  /-- BUF_READ's byte (R82) -/
  | byte (v : Byte)
  /-- `raise Fault(reason)` (R139) -/
  | fault (f : Fault)
  /-- `refuse(reason)` (R139) -/
  | refusal (r : Refusal)
deriving DecidableEq, Repr

/-- A command as it stands in the queue: the host has issued it, and the executing context either runs it to its end or
stalls for ever during it (U24, R143). Which of the two is settled outside the machine. DESIGN CHOICE, safe
(notes/assumptions/21.md). -/
inductive Issued where
  | command (c : Command)
  | stalled (c : Command)
deriving DecidableEq, Repr

/-- The machine's state: the block's tuple (R15), the host agent's tick and cursors (R113, R115), and the model's own
fields `pending` (notes/assumptions/1.md), `result` (3.md) and `draws` (4.md, 7.md). DESIGN CHOICE. -/
structure State where
  slots : Vector Slot Config.maxChannels
  level : PinMap Level
  engine : Sequencer
  wave : PinMap (List Segment)
  faulted : Bool
  refused : Bool
  tick : Word
  anim : Vector (Vector AnimRec 7) Config.maxChannels
  /-- the commands the host has issued and the block has not taken yet, oldest first -/
  pending : List Issued
  /-- how the last command ended -/
  result : Result
  /-- how many free values have been drawn -/
  draws : Nat
deriving DecidableEq, Repr

/-- The state after reset (R38, R114, R115, R152). -/
def State.reset : State where
  slots := Vector.replicate Config.maxChannels Slot.inert
  level := []
  engine := .idle
  wave := []
  faulted := false
  refused := false
  tick := 0
  anim := Vector.replicate Config.maxChannels (Vector.replicate 7 AnimRec.initial)
  pending := []
  result := .nothing
  draws := 0

end Sys2Proof.Machine
end

