-- ==== Sys2Proof/Machine/Operands.lean ====
section
/-! DEFINITION. What an operand names: a channel by its handle (R17, R76), a live buffer reference (R81), a colour after
clamping (R61), a byte of a buffer (R41). -/

namespace Sys2Proof.Machine

/-- `slot[h]`: the slot a handle names, if there is one (R17). -/
def State.slot? (s : State) (h : Handle) : Option Slot := s.slots[h.toNat]?

/-- The channel a handle names: its slot, if there is one and it is active (`Valid(h)` of R73, LOOKUP of R76). Every
per-channel command goes through it (R49). -/
def State.channel? (s : State) (h : Handle) : Option Slot := (s.slot? h).filter (·.active)

/-- `Valid(h)` (R73). -/
def State.valid (s : State) (h : Handle) : Bool := (s.channel? h).isSome

/-- The channel of a live reference: its handle is valid and its generation is the slot's (R81). -/
def State.live? (s : State) (ref : BufRef) : Option Slot := (s.channel? ref.handle).filter (fun sl => sl.gen == ref.gen)

/-- `clamp8(x) = min(x, 255)` (R61): operands are unsigned, so a caller's -1 clamps to 255 (D20). -/
def clamp8 (x : Word) : Byte := if 255 < x.toNat then 255 else x.setWidth 8

/-- Component `c` of a pixel in storage order: 0 red, 1 green, 2 blue (R41). -/
def pixelComponent (px : Pixel) : Nat → Byte
  | 0 => px.r
  | 1 => px.g
  | _ => px.b

/-- A pixel with its component `c` replaced (R42). -/
def setPixelComponent (v : Byte) (c : Nat) (px : Pixel) : Pixel :=
  match c with
  | 0 => { px with r := v }
  | 1 => { px with g := v }
  | _ => { px with b := v }

/-- The pixels of a slot's buffer. -/
def Slot.pixels (sl : Slot) : Buffer := sl.buffer.getD []

/-- How many bytes a channel's buffer has: three a pixel (R41). -/
def Slot.byteCount (sl : Slot) : Nat := 3 * sl.pixelCount.toNat

/-- `ByteOf(h, a)` (R41), for an offset within the buffer. -/
def Slot.byteAt (sl : Slot) (a : Nat) : Byte := pixelComponent (sl.pixels.getD (a / 3) Pixel.black) (a % 3)

/-- Whether a channel's buffer has the form of R19: an active slot owns exactly `pixelCount` pixels, at least one, and
an inert one owns none. -/
def Slot.bufferOk (sl : Slot) : Bool :=
  match sl.buffer with
  | none => !sl.active
  | some b => sl.active && decide (1 ≤ sl.pixelCount.toNat) && b.length == sl.pixelCount.toNat

/-- The form of the block's memory (R19, R39): every slot's buffer has it. -/
def Memory.wf (s : State) : Bool := s.slots.toList.all Slot.bufferOk

/-- One byte of memory as a claim reads it: the byte at offset `a` of channel `h`, if the channel is active and has
that byte (R28, R42). -/
def State.byte? (s : State) (h : Handle) (a : Nat) : Option Byte :=
  (s.channel? h).bind fun sl => if a < sl.byteCount then some (sl.byteAt a) else none

end Sys2Proof.Machine
end

