-- ==== Sys2Proof/Machine/Encoder.lean ====
section
/-! DEFINITION. The RGB-to-bitstream encoder (42_transmit_ops.md, R93 to R96; 30_encoding.md, R65 to R67): the wire
bytes of a channel and the symbol of a bit. Pure functions of a slot: encoding writes nothing (R96). -/

namespace Sys2Proof.Machine

/-- `AdjMax` (R93): the ceiling of a component under a brightness and an offset. -/
def adjMaxWith (gbOffset : Nat) (br : Byte) : WireSlot → Nat
  | .red => br.toNat
  | .green => br.toNat - gbOffset
  | .blue => br.toNat - gbOffset

/-- The component of a pixel that goes into a wire slot (R65, R95). -/
def wireComponent (px : Pixel) : WireSlot → Byte
  | .green => px.g
  | .red => px.r
  | .blue => px.b

/-- `WireByte(h, i, k)` (R95), under any scaling function and offset (R6). -/
def Slot.wireByteWith (map : Nat → Nat → Nat) (gbOffset : Nat) (sl : Slot) (i : Nat) (k : WireSlot) : Byte :=
  .ofNat 8 (map (wireComponent (sl.pixels.getD i Pixel.black) k).toNat (adjMaxWith gbOffset sl.brightness k))

/-- `WireByte(h, i, k)` (R95), under the spec's scaling function and offset. -/
def Slot.wireByte (sl : Slot) (i : Nat) (k : WireSlot) : Byte := sl.wireByteWith Config.mapFn Config.gbOffset i k

/-- The wire slots of a pixel, in time order (R65). -/
def wireOrder : List WireSlot := [.green, .red, .blue]

/-- The bits of a wire byte, in time order (R66). -/
def bitOrder : List (Fin 8) := [7, 6, 5, 4, 3, 2, 1, 0]

/-- The class of a segment of a symbol (R67): a 1 is long high, short low; a 0 is short high, long low. -/
def symbolClass (bit : Bool) : Phase → SegClass
  | .high => if bit then .long else .short
  | .low => if bit then .short else .long
  | .latch => .latch

/-- The level of a phase (R101). -/
def phaseLevel : Phase → Level
  | .high => .high
  | .low => .low
  | .latch => .low

/-- The level and class of the segment that a channel's engine emits at a position (R98). -/
def Slot.shapeAt (sl : Slot) (pos : Pos) : Level × SegClass :=
  (phaseLevel pos.phase, symbolClass ((sl.wireByte pos.i pos.k).getLsbD pos.j.val) pos.phase)

/-- The positions of a transmission of channel `h`, in the order of R98 and R99: pixel, wire slot, bit, phase, and the
latch at the end. -/
def positions (h : Handle) (n : Nat) : List Pos :=
  ((List.range n).flatMap fun i => wireOrder.flatMap fun k => bitOrder.flatMap fun j =>
    [⟨h, i, k, j, .high⟩, ⟨h, i, k, j, .low⟩]) ++ [⟨h, n - 1, .blue, 0, .latch⟩]

end Sys2Proof.Machine
end

