-- ==== Sys2Proof/Machine/Flags.lean ====
section
/-! DEFINITION. How a command ends (R9, R139) and the two sticky marks (R35, R36). The block has no condition codes and
no status register (R25) and takes no trap (R145): a fault saves nothing, sets its mark and hands its reason to the
host. -/

namespace Sys2Proof.Machine

/-- `return v` (R9): the value goes to the host and is not stored in the block (R25). -/
def State.returns (r : Result) (s : State) : State := { s with result := r }

/-- `raise Fault(reason)` (R9, R35): the mark `faulted` and nothing else (R82, R145). DEDUCED: control goes back to
the host, as R145 says of every error (notes/assumptions/3.md). -/
def State.raiseFault (f : Fault) (s : State) : State := { s with faulted := true, result := .fault f }

/-- `refuse(UnassignedOpcode(OP))` (R36, R71): the mark `refused` and nothing else. -/
def State.refuseOpcode (op : Byte) (s : State) : State :=
  { s with refused := true, result := .refusal (.unassignedOpcode op) }

end Sys2Proof.Machine
end

