-- ==== Sys2Proof/Machine/Timing.lean ====
section
/-! DEFINITION. The real duration of a segment (70_reset_and_hazards.md, R162): draws within the bounds of the timing
parameters. No functional rule reads one (R10, R167). -/

namespace Sys2Proof.Machine

/-- The nominal interval of a class (R10). An `IDLE` segment has none: the host sets its length (R34). -/
def SegClass.nominal (T : Timing) : SegClass → Time
  | .short => T.tShort
  | .long => T.tLong
  | .latch => T.tLatch
  | .idle => 0

/-- A free value kept within `[lo, hi]`. -/
def within (lo hi x : Time) : Time := max lo (min hi x)

/-- The calibration draw: within `[T_class - TOL, T_class + TOL]` (R162), and no interval is negative.
DEDUCED, unsafe (notes/assumptions/11.md). -/
def calibrated (T : Timing) (D : Draws) (k : Nat) (c : SegClass) : Time :=
  max 0 (within (c.nominal T - T.tol) (c.nominal T + T.tol) (D.interval k))

/-- The overhead draw, within `[0, T_GAP_MAX]`, on the LOW segment of a symbol only (R162, D49). -/
def overhead (T : Timing) (D : Draws) (k : Nat) : Level → SegClass → Time
  | .low, .short => within 0 T.tGapMax (D.overhead k)
  | .low, .long => within 0 T.tGapMax (D.overhead k)
  | _, _ => 0

/-- The stall draw of the k-th segment: non-negative and unbounded (R143). -/
def stallOf (D : Draws) (k : Nat) : Time := max 0 (D.stall k)

/-- The duration of the k-th segment (R162); an `IDLE` segment's is the host's (R34). -/
def durationWith (T : Timing) (D : Draws) (k : Nat) (l : Level) : SegClass → Time
  | .idle => max 0 (D.idle k)
  | c => calibrated T D k c + overhead T D k l c + stallOf D k

/-- The k-th segment, of a level and a class, under some timing and draws. -/
def segmentWith (T : Timing) (D : Draws) (k : Nat) (l : Level) (c : SegClass) : Segment := ⟨l, c, durationWith T D k l c, k⟩

/-- The segments emitted one after another from the k-th draw on, under some timing and draws. -/
def segmentsWith (T : Timing) (D : Draws) (k : Nat) : List (Level × SegClass) → List Segment
  | [] => []
  | x :: xs => segmentWith T D k x.1 x.2 :: segmentsWith T D (k + 1) xs

/-- The machine's k-th segment: its duration is a FREE VALUE (notes/assumptions/4.md). -/
def drawSegment (k : Nat) (l : Level) (c : SegClass) : Segment := segmentWith Config.timing Config.draws k l c

/-- The segments the machine emits one after another from the k-th draw on. -/
def segments (k : Nat) (shapes : List (Level × SegClass)) : List Segment := segmentsWith Config.timing Config.draws k shapes

/-- What a claim compares of a segment: level and class (R47). -/
def Segment.shape (g : Segment) : Level × SegClass := (g.level, g.cls)

end Sys2Proof.Machine
end

