-- ==== Sys2Proof/Machine/Ops.lean ====
section
/-! DEFINITION. The shared operations over the state: pin maps, pins and their logs (R30, R34), slots and buffers (R41,
R42), the pulse-timing engine (R98 to R105), the animation records (R115), and taking a command from the host. -/

namespace Sys2Proof.Machine

/-! ### Maps from pins -/

/-- The order of the pins in a `PinMap`: by port, then by bit. -/
def pinBefore (p q : Pin) : Bool := decide (p.port < q.port) || (p.port == q.port && decide (p.bit < q.bit))

/-- The value of a pin, if it is listed. -/
def PinMap.get {α : Type} (p : Pin) : PinMap α → Option α
  | [] => none
  | (q, v) :: m => if q = p then some v else PinMap.get p m

/-- The map with a pin's value set, in its place in the order. -/
def PinMap.set {α : Type} (p : Pin) (v : α) : PinMap α → PinMap α
  | [] => [(p, v)]
  | (q, w) :: m =>
    if q = p then (p, v) :: m
    else if pinBefore p q then (p, v) :: (q, w) :: m
    else (q, w) :: PinMap.set p v m

/-- The canonical form of a map: its pins strictly rise. -/
abbrev PinMap.wf {α : Type} (m : PinMap α) : Prop := m.Pairwise fun a b => pinBefore a.1 b.1 = true

/-! ### Pins and their logs -/

/-- `level[p]` (R30): `none` is `UNDRIVEN`. -/
def State.levelOf (s : State) (p : Pin) : Option Level := s.level.get p

/-- `wave[p]` (R34): the segments emitted on a pin, oldest first. -/
def State.waveOf (s : State) (p : Pin) : List Segment := (s.wave.get p).getD []

/-- `level[p] <- l` (R30, R31): only that pin changes. -/
def State.drive (p : Pin) (l : Level) (s : State) : State := { s with level := s.level.set p l }

/-- `emit(p, l, c)` (R34): one segment, with the next draws for its duration, at the end of the pin's log. -/
def State.emit (p : Pin) (l : Level) (c : SegClass) (s : State) : State :=
  { s with wave := s.wave.set p (s.waveOf p ++ [drawSegment s.draws l c]), draws := s.draws + 1 }

/-! ### Slots and buffers -/

/-- `slot[h] <- sl`. -/
def State.setSlot (h : Handle) (sl : Slot) (s : State) : State :=
  { s with slots := s.slots.setIfInBounds h.toNat sl }

/-- `Release(h)` of R73. -/
def Slot.release (sl : Slot) : Slot := { sl with buffer := none, active := false, gen := sl.gen + 1 }

/-- A slot with its pixels replaced. -/
def Slot.withPixels (sl : Slot) (b : Buffer) : Slot := { sl with buffer := some b }

/-- `MemWrite(h, a, 1, v)` (R42): the slot with one byte of its buffer set. -/
def Slot.writeByte (a : Nat) (v : Byte) (sl : Slot) : Slot :=
  sl.withPixels (sl.pixels.modify (a / 3) (setPixelComponent v (a % 3)))

/-! ### The pulse-timing engine -/

/-- One phase of the engine (R98, R101): the sequencer at its position, the pin driven, the segment emitted. -/
def State.phase (sl : Slot) (s : State) (pos : Pos) : State :=
  (State.drive sl.portBit (sl.shapeAt pos).1 { s with engine := .at pos }).emit sl.portBit (sl.shapeAt pos).1 (sl.shapeAt pos).2

/-- `SendChannel(h)` (R98): every position in order, then `IDLE`. -/
def State.sendChannel (h : Handle) (sl : Slot) (s : State) : State :=
  { (positions h sl.pixelCount.toNat).foldl (State.phase sl) s with engine := .idle }

/-- The sending of a handle in SEND_ALL: an inactive slot is silently skipped (R104, R106). -/
def State.sendHandle (s : State) (h : Handle) : State :=
  match s.channel? h with
  | some sl => s.sendChannel h sl
  | none => s

/-- The handles that name a slot, ascending (R16, R104). -/
def handles : List Handle := (List.range Config.maxChannels).map (BitVec.ofNat 8)

/-- `wait(LATCH)` (R105): no pin changes and no segment is appended; the engine is idle after it (R29). The length of
the wait is not in the state (notes/assumptions/8.md). -/
def State.waitLatch (s : State) : State := { s with engine := .idle }

/-- `SEND_ALL` (R104, R105): every active channel in ascending handle order, then the final wait. -/
def State.sendAll (s : State) : State := (handles.foldl State.sendHandle s).waitLatch

/-! ### Animation records -/

/-- The place of an effect's record among a handle's seven (R115). -/
def Effect.index : Effect → Fin 7
  | .rainbow => 0
  | .rainbowCycle => 1
  | .rainbows => 2
  | .theaterChase => 3
  | .colorWipe => 4
  | .pulse => 5
  | .flash => 6

/-- The seven records of a handle (R115). -/
def State.animBank (s : State) (h : Handle) : Vector AnimRec 7 :=
  s.anim[h.toNat]?.getD (Vector.replicate 7 AnimRec.initial)

/-- `anim[h][E]` (R115), for a handle that names a slot. -/
def State.animOf (s : State) (h : Handle) (E : Effect) : AnimRec := (s.animBank h)[E.index]

/-- `anim[h][E] <- a` (R115): no other record changes. -/
def State.setAnim (h : Handle) (E : Effect) (a : AnimRec) (s : State) : State :=
  { s with anim := s.anim.setIfInBounds h.toNat ((s.animBank h).set E.index a) }

/-! ### Taking a command from the host -/

/-- The oldest command the host has issued, and the state with it taken (R13, R50). -/
def State.fetch? (s : State) : Option (Issued × State) :=
  match s.pending with
  | [] => none
  | c :: rest => some (c, { s with pending := rest })

end Sys2Proof.Machine
end

