-- ==== Sys2Proof/Machine/Effects.lean ====
section
/-! DEFINITION. The host agent's commands (46_host_scheduler.md, R111 to R134): TICK and the seven effects, their frame
functions and cursor advances. -/

namespace Sys2Proof.Machine

/-! ### Frame functions: the new pixels of a channel, from its slot and the cursor -/

/-- A frame of `n` pixels, one by one. -/
def frameOf (n : Nat) (px : Nat → Pixel) : Buffer := (List.range n).map px

/-- The wheel's colour at an index taken modulo 256, its period (R122). -/
def wheelAt (wheel : Byte → Pixel) (i : Int) : Pixel := wheel (.ofInt 8 (i % 256))

/-- RAINBOW (R124): `Wheel((i + c) mod 256)`. PRESUMED by the spec (D32; notes/assumptions/9.md). -/
def rainbowFrame (wheel : Byte → Pixel) (sl : Slot) (c : Int) : Buffer :=
  frameOf sl.pixelCount.toNat fun i => wheelAt wheel (i + c)

/-- One wheel cycle over a span of pixels (R125, R126): `Wheel((floor(i * 256 / span) + c) mod 256)`. PRESUMED by the
spec (D32; notes/assumptions/9.md). -/
def spanFrame (wheel : Byte → Pixel) (span : Nat) (sl : Slot) (c : Int) : Buffer :=
  frameOf sl.pixelCount.toNat fun i => wheelAt wheel ((i * 256 / span : Nat) + c)

/-- THEATER_CHASE (R127): every third pixel, offset by the cursor, is lit; the others are cleared. -/
def chaseFrame (color : Pixel) (sl : Slot) (c : Int) : Buffer :=
  frameOf sl.pixelCount.toNat fun i => if (i : Int) % 3 = c then color else Pixel.black

/-- COLOR_WIPE's guard (R128, D35): a cursor past the strip starts again at 0. -/
def wipeCursor (n : Nat) (c : Int) : Int := if (n : Int) ≤ c then 0 else c

/-- COLOR_WIPE (R128): the pixel at the cursor is set, no other changes. A negative cursor, which no run reaches, sets
pixel 0: DESIGN CHOICE (notes/assumptions/15.md). -/
def wipeFrame (color : Pixel) (sl : Slot) (c : Int) : Buffer :=
  sl.pixels.set (wipeCursor sl.pixelCount.toNat c).toNat color

/-- A component scaled by the pulse cursor, rounding down (R130, D33). Past 0 to 255, which no run reaches, it wraps:
DESIGN CHOICE (notes/assumptions/15.md). -/
def pulseScale (v : Byte) (c : Int) : Byte := .ofInt 8 (v.toNat * c / 255)

/-- PULSE (R130): every pixel in the colour scaled by the cursor. -/
def pulseFrame (color : Pixel) (sl : Slot) (c : Int) : Buffer :=
  frameOf sl.pixelCount.toNat fun _ => ⟨pulseScale color.r c, pulseScale color.g c, pulseScale color.b c⟩

/-- FLASH (R131): every pixel in one primary, chosen by the cursor: 0 red, 1 green, 2 blue. A cursor that no run
reaches gives blue: DESIGN CHOICE (notes/assumptions/15.md). -/
def flashFrame (v : Byte) (sl : Slot) (c : Int) : Buffer :=
  frameOf sl.pixelCount.toNat fun _ =>
    if c = 0 then ⟨v, 0, 0⟩ else if c = 1 then ⟨0, v, 0⟩ else ⟨0, 0, v⟩

/-! ### Cursor advances: the record after a frame of a strip of `n` pixels -/

/-- `c <- (c + 1) mod period` (R124 to R127, R131). -/
def cycleCursor (period : Int) (_n : Nat) (a : AnimRec) : AnimRec := { a with cursor := (a.cursor + 1) % period }

/-- COLOR_WIPE's advance (R128): after the last pixel, 0. -/
def wipeAdvance (n : Nat) (a : AnimRec) : AnimRec :=
  let c := wipeCursor n a.cursor + 1
  { a with cursor := if c = n then 0 else c }

/-- The step of a direction (R115). -/
def Dir.step : Dir → Int
  | .up => 1
  | .down => -1

/-- PULSE's advance (R130): one step, and the direction flips at 255 and at 0. -/
def pulseAdvance (_n : Nat) (a : AnimRec) : AnimRec :=
  let c := a.cursor + a.dir.step
  { a with cursor := c, dir := if c = 255 then .down else if c = 0 then .up else a.dir }

/-! ### The common contract -/

/-- `Due(h, E, speed)` (R117): the ticks since the last frame, modulo 2^32, reach the speed. -/
def State.due (s : State) (h : Handle) (E : Effect) (speed : Word) : Bool :=
  decide (speed.toNat ≤ (s.tick - (s.animOf h E).last).toNat)

/-- A due frame (step 4 of R118): the timestamp, the frame, SEND_ALL, the cursor. -/
def State.animate (E : Effect) (h : Handle) (frame : Slot → Int → Buffer) (advance : Nat → AnimRec → AnimRec) (sl : Slot)
    (s : State) : State :=
  let fired := { s.animOf h E with last := s.tick }
  (((s.setAnim h E fired).setSlot h (sl.withPixels (frame sl fired.cursor))).sendAll).setAnim h E
    (advance sl.pixelCount.toNat fired)

/-- `Effect(E, H, params, speed)` (R118), one step with its SEND_ALL inside (DEDUCED, safe; notes/assumptions/20.md):
nothing on an invalid handle, nothing before it is due, else one frame. -/
def State.runEffect (E : Effect) (h : Handle) (speed : Word) (frame : Slot → Int → Buffer)
    (advance : Nat → AnimRec → AnimRec) (s : State) : State :=
  match s.channel? h with
  | none => s.returns .nothing
  | some sl => (if s.due h E speed then s.animate E h frame advance sl else s).returns .nothing

/-! ### The commands -/

/-- RAINBOW (R124). -/
def execRainbow (h : Handle) (speed : Word) (s : State) : Host.Outcome State Fault Refusal :=
  .next (s.runEffect .rainbow h speed (rainbowFrame Config.wheel.color) (cycleCursor 256))

/-- RAINBOW_CYCLE (R125). -/
def execRainbowCycle (h : Handle) (speed : Word) (s : State) : Host.Outcome State Fault Refusal :=
  .next (s.runEffect .rainbowCycle h speed (fun sl c => spanFrame Config.wheel.color sl.pixelCount.toNat sl c)
    (cycleCursor 256))

/-- RAINBOWS (R126): on a valid handle a width of zero faults, due or not, and writes nothing (R140, D37). -/
def execRainbows (h : Handle) (width : Half) (speed : Word) (s : State) : Host.Outcome State Fault Refusal :=
  if s.valid h ∧ width = 0 then .next (s.raiseFault .zeroWidth)
  else .next (s.runEffect .rainbows h speed (spanFrame Config.wheel.color width.toNat) (cycleCursor 256))

/-- THEATER_CHASE (R127). -/
def execTheaterChase (h : Handle) (r g b : Byte) (speed : Word) (s : State) : Host.Outcome State Fault Refusal :=
  .next (s.runEffect .theaterChase h speed (chaseFrame ⟨r, g, b⟩) (cycleCursor 3))

/-- COLOR_WIPE (R128). -/
def execColorWipe (h : Handle) (r g b : Byte) (speed : Word) (s : State) : Host.Outcome State Fault Refusal :=
  .next (s.runEffect .colorWipe h speed (wipeFrame ⟨r, g, b⟩) wipeAdvance)

/-- PULSE (R130). -/
def execPulse (h : Handle) (r g b : Byte) (speed : Word) (s : State) : Host.Outcome State Fault Refusal :=
  .next (s.runEffect .pulse h speed (pulseFrame ⟨r, g, b⟩) pulseAdvance)

/-- FLASH (R131). -/
def execFlash (h : Handle) (v : Byte) (speed : Word) (s : State) : Host.Outcome State Fault Refusal :=
  .next (s.runEffect .flash h speed (flashFrame v) (cycleCursor 3))

/-- TICK (R116): one more tick, modulo 2^32; no block state changes. -/
def execTick (s : State) : Host.Outcome State Fault Refusal := .next (State.returns .nothing { s with tick := s.tick + 1 })

end Sys2Proof.Machine
end

