-- ==== Sys2Proof/Machine/Fill.lean ====
section
/-! DEFINITION. The solid-fill commands (41_fill_ops.md, R85 to R92). -/

namespace Sys2Proof.Machine

/-- Every pixel of a channel's buffer in one colour (R85). -/
def Slot.filled (c : Pixel) (sl : Slot) : Slot := sl.withPixels (List.replicate sl.pixelCount.toNat c)

/-- `Fill(H, c)` (R85), for one reading of `FILL_SENDS` (D19): not tick-gated; an invalid handle is a no-op (R91). -/
def State.fillWith (sends : Bool) (h : Handle) (c : Pixel) (s : State) : State :=
  match s.channel? h with
  | none => s.returns .nothing
  | some sl =>
    let filled := s.setSlot h (sl.filled c)
    (if sends then filled.sendAll else filled).returns .nothing

/-- `Fill(H, c)` (R85). -/
def State.fill (h : Handle) (c : Pixel) (s : State) : State := s.fillWith Config.fillSends h c

/-- LED_OFF (R86). -/
def execLedOff (h : Handle) (s : State) : Host.Outcome State Fault Refusal := .next (s.fill h ⟨0, 0, 0⟩)

/-- LED_RED (R87). -/
def execLedRed (h : Handle) (s : State) : Host.Outcome State Fault Refusal := .next (s.fill h ⟨255, 0, 0⟩)

/-- LED_GREEN (R88). -/
def execLedGreen (h : Handle) (s : State) : Host.Outcome State Fault Refusal := .next (s.fill h ⟨0, 255, 0⟩)

/-- LED_BLUE (R89). -/
def execLedBlue (h : Handle) (s : State) : Host.Outcome State Fault Refusal := .next (s.fill h ⟨0, 0, 255⟩)

/-- LED_FILL (R90): each component clamped on its own (R61). -/
def execLedFill (h : Handle) (r g b : Word) (s : State) : Host.Outcome State Fault Refusal :=
  .next (s.fill h ⟨clamp8 r, clamp8 g, clamp8 b⟩)

end Sys2Proof.Machine
end

