-- ==== Sys2Proof/Machine/Registry.lean ====
section
/-! DEFINITION. The registry and buffer-port commands (40_registry_ops.md, R73 to R84). -/

namespace Sys2Proof.Machine

/-- The slot a successful CONFIGURE leaves (R74), over the slot it found after any release. -/
def Slot.configured (pin : PinToken) (p : Pin) (n : Half) (br : Byte) (sl : Slot) : Slot where
  active := true
  pin := pin
  portBit := p
  pixelCount := n
  brightness := br
  buffer := some (List.replicate n.toNat Pixel.black)
  gen := sl.gen + 1

/-- The slot CONFIGURE works on once its operands have passed: an active one is released first (R74). -/
def Slot.released (sl : Slot) : Slot := if sl.active then sl.release else sl

/-- CONFIGURE (R74), for one answer of the pin resolver and one of the allocator. The three rejections come before any
change (D14); the allocator is asked only after them. -/
def State.configureWith (resolved : Option Pin) (allocOk : Bool) (h : Handle) (pin : PinToken) (n : Half) (br : Byte)
    (s : State) : State :=
  match s.slot? h with
  | none => s.returns (.success false)
  | some sl =>
    if n = 0 then s.returns (.success false)
    else
      match resolved with
      | none => s.returns (.success false)
      | some p =>
        let asked := { s with draws := s.draws + 1 }
        if allocOk then
          (((asked.setSlot h (sl.released.configured pin p n br)).drive p .low).emit p .low .idle).returns (.success true)
        else
          (asked.setSlot h sl.released).returns (.success false)

/-- CONFIGURE (R74): the resolver and the allocator answer what the platform makes them answer. -/
def execConfigure (h : Handle) (pin : PinToken) (n : Half) (br : Byte) (s : State) : Host.Outcome State Fault Refusal :=
  .next (s.configureWith (Config.resolve pin) (Config.allocOk s.draws n) h pin n br)

/-- LOOKUP (R76). -/
def execLookup (h : Handle) (s : State) : Host.Outcome State Fault Refusal :=
  .next (s.returns (.channel (if s.valid h then some h else none)))

/-- GET_LED_COUNT (R78): 0 for an invalid handle (D17). -/
def execGetLedCount (h : Handle) (s : State) : Host.Outcome State Fault Refusal :=
  match s.channel? h with
  | some sl => .next (s.returns (.count (sl.pixelCount.setWidth 32)))
  | none => .next (s.returns (.count 0))

/-- GET_BUFFER (R80). -/
def execGetBuffer (h : Handle) (s : State) : Host.Outcome State Fault Refusal :=
  match s.channel? h with
  | some sl => .next (s.returns (.reference (some ⟨h, sl.gen⟩)))
  | none => .next (s.returns (.reference none))

/-- An access of the buffer port (R82, R83): a reference that is not live faults, then an offset past the buffer
(R140), and only then does the access happen. -/
def State.access (ref : BufRef) (a : Word) (use : Slot → State) (s : State) : State :=
  match s.live? ref with
  | none => s.raiseFault (.staleBufferReference ref.handle ref.gen)
  | some sl =>
    if sl.byteCount ≤ a.toNat then s.raiseFault (.bufferOutOfBounds ref.handle a)
    else use sl

/-- BUF_READ (R82). -/
def execBufRead (ref : BufRef) (a : Word) (s : State) : Host.Outcome State Fault Refusal :=
  .next (s.access ref a fun sl => s.returns (.byte (sl.byteAt a.toNat)))

/-- BUF_WRITE (R83). -/
def execBufWrite (ref : BufRef) (a : Word) (v : Byte) (s : State) : Host.Outcome State Fault Refusal :=
  .next (s.access ref a fun sl => (s.setSlot ref.handle (sl.writeByte a.toNat v)).returns .nothing)

end Sys2Proof.Machine
end

