-- ==== Sys2Proof/Machine/Transmit.lean ====
section
/-! DEFINITION. The transmission commands (42_transmit_ops.md, R102, R104). -/

namespace Sys2Proof.Machine

/-- ENCODE_AND_SEND (R102): an inactive or absent channel is silently skipped. -/
def execEncodeAndSend (h : Handle) (s : State) : Host.Outcome State Fault Refusal :=
  .next ((s.sendHandle h).returns .nothing)

/-- SEND_ALL (R104). -/
def execSendAll (s : State) : Host.Outcome State Fault Refusal := .next (s.sendAll.returns .nothing)

end Sys2Proof.Machine
end

