-- ==== Sys2Proof/Machine/Dispatch.lean ====
section
/-! DEFINITION. Dispatch: one arm per command of the opcode map (R59). -/

namespace Sys2Proof.Machine

/-- What a decoded command does. -/
def exec (i : Instr) (s : State) : Host.Outcome State Fault Refusal :=
  match i with
  | .configure h pin n br => Sys2Proof.Machine.execConfigure h pin n br s
  | .lookup h => Sys2Proof.Machine.execLookup h s
  | .getLedCount h => Sys2Proof.Machine.execGetLedCount h s
  | .getBuffer h => Sys2Proof.Machine.execGetBuffer h s
  | .bufRead ref a => Sys2Proof.Machine.execBufRead ref a s
  | .bufWrite ref a v => Sys2Proof.Machine.execBufWrite ref a v s
  | .ledOff h => Sys2Proof.Machine.execLedOff h s
  | .ledRed h => Sys2Proof.Machine.execLedRed h s
  | .ledGreen h => Sys2Proof.Machine.execLedGreen h s
  | .ledBlue h => Sys2Proof.Machine.execLedBlue h s
  | .ledFill h r g b => Sys2Proof.Machine.execLedFill h r g b s
  | .encodeAndSend h => Sys2Proof.Machine.execEncodeAndSend h s
  | .sendAll => Sys2Proof.Machine.execSendAll s
  | .rainbow h speed => Sys2Proof.Machine.execRainbow h speed s
  | .rainbowCycle h speed => Sys2Proof.Machine.execRainbowCycle h speed s
  | .rainbows h width speed => Sys2Proof.Machine.execRainbows h width speed s
  | .theaterChase h r g b speed => Sys2Proof.Machine.execTheaterChase h r g b speed s
  | .colorWipe h r g b speed => Sys2Proof.Machine.execColorWipe h r g b speed s
  | .pulse h r g b speed => Sys2Proof.Machine.execPulse h r g b speed s
  | .flash h v speed => Sys2Proof.Machine.execFlash h v speed s
  | .tick => Sys2Proof.Machine.execTick s

end Sys2Proof.Machine
end

