-- ==== Sys2Proof/Machine/Step.lean ====
section
/-! DEFINITION. One step of the machine: one command of the host, to completion (R13, R50), or, where the host has
issued none, nothing (R153). -/

namespace Sys2Proof.Machine

/-- One step. With no command pending the block waits (R153). A command word that names no command is refused by its
mark (R71); operands that are not the opcode's (R58) make no command of the spec, and the run stops. A command during
which the context stalls for ever does not end, and no later one runs (U24, R143). -/
def step (s : State) : Host.Outcome State Fault Refusal :=
  match s.fetch? with
  | none => .next s
  | some (.stalled _, _) => .fault .stuck
  | some (.command c, taken) =>
    match decode c with
    | .ok i => exec i taken
    | .error (.unassignedOpcode op) => .next (taken.refuseOpcode op)
    | .error (.malformedOperands op) => .refused (.malformedOperands op)

/-- The state in which the host has issued one more command, which the next step takes: a word of the opcode table and
zero operands. The block fetches nothing itself (R29): this stands for the host's issuing the command
(notes/assumptions/1.md). -/
def State.withFetchWord (s : State) (nbits w : Nat) : State :=
  { s with pending := .command (Command.ofTableWord nbits w) :: s.pending }

end Sys2Proof.Machine
end

