-- ==== Sys2Proof/Safety.lean ====
section
/-! DEFINITION. What counts as a safe run, and the terms claims use: the invariant of the state (R19 and the other rules
it cites), final states (R35), the wire format written out (R65 to R70), the receiver's reading of a log (R109) and its
timing premise (R163), and what no command can observe (R20). -/

namespace Sys2Proof.Machine

/-! ### Final states and outcomes -/

/-- A run has ended well: no command is pending, and no fault was raised (R35) and no command word refused (R71). -/
def State.final (s : State) : Bool := s.pending.isEmpty && !s.faulted && !s.refused

/-- The next state of an outcome, if it has one. -/
def nextOf (o : Host.Outcome State Fault Refusal) : Option State :=
  match o with
  | .next t => some t
  | .fault _ => none
  | .refused _ => none

/-- One command issued a number of times in a row: the state after the last. -/
def repeatExec (i : Instr) : Nat → State → Option State
  | 0, s => some s
  | k + 1, s => (nextOf (exec i s)).bind (repeatExec i k)

/-- Commands one after another: the state after the last. -/
def execAll : List Instr → State → Option State
  | [], s => some s
  | i :: is, s => (nextOf (exec i s)).bind (execAll is)

/-! ### The invariant -/

/-- The slot invariant (R19): the buffer's form, and the pin resolved. -/
def Slot.ok (sl : Slot) : Prop :=
  sl.bufferOk = true ∧ (sl.active = true → Config.resolve sl.pin = some sl.portBit)

/-- A segment of a log: its length is not negative, and a latch is low and at least the strip's threshold long (R69). -/
def Segment.ok (T : Timing) (g : Segment) : Prop :=
  0 ≤ g.d ∧ (g.cls = .latch → g.level = .low ∧ T.tResetMin ≤ g.d)

/-- A pin's log: it has a segment, its segments are in the order of their draws, all were drawn before `n`, and each has
the length its class needs. -/
def logOk (n : Nat) (segs : List Segment) : Prop :=
  segs ≠ [] ∧ segs.Pairwise (fun a b => a.seq < b.seq) ∧ ∀ g ∈ segs, g.seq < n ∧ g.ok Config.timing

/-- The cursors an effect reaches (R124 to R131): below its period; for PULSE in 0 to 255, turned around at the ends. -/
def Effect.cursorOk (a : AnimRec) : Effect → Prop
  | .rainbow => 0 ≤ a.cursor ∧ a.cursor < 256
  | .rainbowCycle => 0 ≤ a.cursor ∧ a.cursor < 256
  | .rainbows => 0 ≤ a.cursor ∧ a.cursor < 256
  | .theaterChase => 0 ≤ a.cursor ∧ a.cursor < 3
  | .colorWipe => 0 ≤ a.cursor ∧ a.cursor < 65535
  | .pulse => 0 ≤ a.cursor ∧ a.cursor ≤ 255 ∧ (a.cursor = 0 → a.dir = .up) ∧ (a.cursor = 255 → a.dir = .down)
  | .flash => 0 ≤ a.cursor ∧ a.cursor < 3

/-- The invariant of the state between commands. Some of its clauses are the model's: the order of draws in a log
(notes/assumptions/5.md), no negative length (11.md), the least length of a latch (13.md), the canonical form of the maps
(14.md) and one resolver for all moments (16.md). -/
structure State.Inv (s : State) : Prop where
  /-- every slot is fully configured or fully inert (R19) -/
  slots_ok : ∀ h sl, s.slot? h = some sl → sl.ok
  /-- both pin maps are in canonical form (notes/assumptions/14.md) -/
  level_wf : s.level.wf
  wave_wf : s.wave.wf
  /-- every log is in the order of its draws (R34), no length is negative and every latch reaches the strip's threshold
  (R69; notes/assumptions/5.md, 11.md, 13.md) -/
  logs_ok : ∀ p segs, s.wave.get p = some segs → logOk s.draws segs
  /-- the engine is idle between commands (R29) -/
  idle : s.engine = .idle
  /-- every pin the block has driven is low between commands (R30) -/
  lines_low : ∀ p l, s.levelOf p = some l → l = .low
  /-- an active channel's pin is driven (R30) -/
  driven : ∀ h sl, s.channel? h = some sl → s.levelOf sl.portBit = some .low
  /-- every cursor is in its effect's range (R115, R124 to R131) -/
  cursors_ok : ∀ h E, Effect.cursorOk (s.animOf h E) E

/-! ### The wire format -/

/-- The symbol of a bit (R67). -/
def symbol (bit : Bool) : List (Level × SegClass) :=
  if bit then [(.high, .long), (.low, .short)] else [(.high, .short), (.low, .long)]

/-- The symbols of a wire byte, most significant bit first (R66, R70). -/
def symbols (w : Byte) : List (Level × SegClass) :=
  symbol (w.getLsbD 7) ++ symbol (w.getLsbD 6) ++ symbol (w.getLsbD 5) ++ symbol (w.getLsbD 4) ++
    symbol (w.getLsbD 3) ++ symbol (w.getLsbD 2) ++ symbol (w.getLsbD 1) ++ symbol (w.getLsbD 0)

/-- `WireBytes(h)` (R95): green, red, blue of every pixel in buffer order (R65). -/
def Slot.wireBytes (sl : Slot) : List Byte :=
  (List.range sl.pixelCount.toNat).flatMap fun i => [sl.wireByte i .green, sl.wireByte i .red, sl.wireByte i .blue]

/-- `Frame(h)` (R70): the symbols of the wire bytes, then the latch. -/
def Slot.frame (sl : Slot) : List (Level × SegClass) := sl.wireBytes.flatMap symbols ++ [(.low, .latch)]

/-- What the frame of the channel a handle names contributes to a pin's log, from its first draw on. -/
def State.frameOn (s : State) (p : Pin) (start : Nat) (h : Handle) : List Segment :=
  match s.channel? h with
  | some sl => if sl.portBit = p then segments start sl.frame else []
  | none => []

/-- Some active channel is on a pin, so that SEND_ALL drives it. -/
def State.inUse (s : State) (p : Pin) : Prop := ∃ h sl, s.channel? h = some sl ∧ sl.portBit = p

/-- What a command that ends in a SEND_ALL leaves on the pins, from the slots it leaves (R52, R104): every log is longer
by the frames of the active channels on its pin, in ascending handle order; a channel's frame starts, on whatever pin,
only after the frames of all lower handles have ended; every pin of an active channel is low, every other as it was. -/
def sentAll (s t : State) : Prop :=
  (∃ start : Handle → Nat,
    (∀ h k sl, h.toNat < k.toNat → k.toNat < 4 → t.channel? h = some sl →
      start h + (48 * sl.pixelCount.toNat + 1) ≤ start k) ∧
    ∀ p, t.waveOf p = s.waveOf p ++ ([0, 1, 2, 3] : List Handle).flatMap fun h => t.frameOn p (start h) h) ∧
    (∀ p, t.inUse p → t.levelOf p = some .low) ∧ (∀ p, ¬ t.inUse p → t.levelOf p = s.levelOf p)

/-- The fields that no command of the block but the marks and the queue writes are as they were. -/
def keepsMarks (s t : State) : Prop := t.faulted = s.faulted ∧ t.refused = s.refused ∧ t.pending = s.pending

/-- The length of a frame by the nominal intervals (R110). -/
def nominalLength (T : Timing) (shapes : List (Level × SegClass)) : Time := (shapes.map fun x => x.2.nominal T).sum

/-! ### The receiver -/

/-- The receiver's reading of a log as frames of bits (R109): a low interval (adjacent low segments together, R34) of at
least the threshold ends a frame; a high segment is a 1 if it is long, a 0 otherwise. A frame that no such interval has
ended yet is not shown (R53). DEDUCED, unsafe (notes/assumptions/19.md). -/
def readBits (T : Timing) (low : Time) (bits : List Bool) : List Segment → List (List Bool)
  | [] => if T.tResetMin ≤ low ∧ bits ≠ [] then [bits] else []
  | g :: gs =>
    match g.level with
    | .low => readBits T (low + g.d) bits gs
    | .high =>
      if T.tResetMin ≤ low ∧ bits ≠ [] then bits :: readBits T 0 [g.cls == .long] gs
      else readBits T 0 (bits ++ [g.cls == .long]) gs

/-- Bits grouped eight at a time, most significant first (R109). The spec does not say what the receiver reads of fewer than
eight bits left over at the end of a frame: they are dropped. DESIGN CHOICE, unsafe (notes/assumptions/22.md). -/
def bytesOfBits : List Bool → List Byte
  | b7 :: b6 :: b5 :: b4 :: b3 :: b2 :: b1 :: b0 :: rest =>
    .ofNat 8 (128 * b7.toNat + 64 * b6.toNat + 32 * b5.toNat + 16 * b4.toNat + 8 * b3.toNat + 4 * b2.toNat +
      2 * b1.toNat + b0.toNat) :: bytesOfBits rest
  | _ => []

/-- The frames of bytes the receiver reads from a log (R109). -/
def readFrames (T : Timing) (segs : List Segment) : List (List Byte) := (readBits T 0 [] segs).map bytesOfBits

/-- The timing premise on one segment of a frame (R163). -/
def segmentInTime (T : Timing) (g : Segment) : Prop :=
  match g.level, g.cls with
  | .high, .short => g.d < (T.tShort + T.tLong) / 2
  | .high, .long => (T.tShort + T.tLong) / 2 < g.d
  | .low, .short => g.d < T.tResetMin
  | .low, .long => g.d < T.tResetMin
  | .low, .latch => T.tResetMin ≤ g.d
  | _, _ => True

/-- The timing premise on the segments of a frame (R163), for a stall draw of each. -/
def TimingPremise (T : Timing) (stall : Nat → Time) (segs : List Segment) : Prop :=
  ∀ g ∈ segs, stall g.seq = 0 ∧ segmentInTime T g

/-! ### What no command observes -/

/-- The state with the unobservable fields of its inert slots (R20) put to one value. -/
def State.maskInert (s : State) : State :=
  { s with slots := s.slots.map fun sl => if sl.active then sl else { Slot.inert with buffer := sl.buffer, gen := sl.gen } }

/-! ### The effects, all at once -/

/-- Operands of an effect command besides the handle and the speed; each effect takes those its format lists (R58). -/
structure EffectArgs where
  width : Half
  r : Byte
  g : Byte
  b : Byte
  v : Byte
deriving DecidableEq, Repr

/-- The command of an effect. -/
def effectInstr (h : Handle) (x : EffectArgs) (speed : Word) : Effect → Instr
  | .rainbow => .rainbow h speed
  | .rainbowCycle => .rainbowCycle h speed
  | .rainbows => .rainbows h x.width speed
  | .theaterChase => .theaterChase h x.r x.g x.b speed
  | .colorWipe => .colorWipe h x.r x.g x.b speed
  | .pulse => .pulse h x.r x.g x.b speed
  | .flash => .flash h x.v speed

/-- The operands with which an effect runs: RAINBOWS needs a width (R126). -/
def effectRuns (x : EffectArgs) (E : Effect) : Prop := E = .rainbows → x.width ≠ 0

/-- The commands that the host agent executes (R59, rows 0x30 to 0x3F). -/
def isHostCommand : Instr → Bool
  | .rainbow _ _ => true
  | .rainbowCycle _ _ => true
  | .rainbows _ _ _ => true
  | .theaterChase _ _ _ _ _ => true
  | .colorWipe _ _ _ _ _ => true
  | .pulse _ _ _ _ _ => true
  | .flash _ _ _ => true
  | .tick => true
  | .configure _ _ _ _ => false
  | .lookup _ => false
  | .getLedCount _ => false
  | .getBuffer _ => false
  | .bufRead _ _ => false
  | .bufWrite _ _ _ => false
  | .ledOff _ => false
  | .ledRed _ => false
  | .ledGreen _ => false
  | .ledBlue _ => false
  | .ledFill _ _ _ _ => false
  | .encodeAndSend _ => false
  | .sendAll => false

/-- The commands that write a buffer or configure a slot (R47): all others leave every slot as it is. -/
def writesSlots : Instr → Bool
  | .configure _ _ _ _ => true
  | .bufWrite _ _ _ => true
  | .ledOff _ => true
  | .ledRed _ => true
  | .ledGreen _ => true
  | .ledBlue _ => true
  | .ledFill _ _ _ _ => true
  | .rainbow _ _ => true
  | .rainbowCycle _ _ => true
  | .rainbows _ _ _ => true
  | .theaterChase _ _ _ _ _ => true
  | .colorWipe _ _ _ _ _ => true
  | .pulse _ _ _ _ _ => true
  | .flash _ _ _ => true
  | .lookup _ => false
  | .getLedCount _ => false
  | .getBuffer _ => false
  | .bufRead _ _ => false
  | .encodeAndSend _ => false
  | .sendAll => false
  | .tick => false

/-- CONFIGURE, the one command that writes a slot's descriptor (R18). -/
def isConfigure (i : Instr) : Bool :=
  match i with
  | .configure _ _ _ _ => true
  | _ => false

/-- A slot's fields other than its pixels: what only CONFIGURE writes (R18). -/
def Slot.descriptor (sl : Slot) : Bool × PinToken × Pin × Half × Byte × Nat :=
  (sl.active, sl.pin, sl.portBit, sl.pixelCount, sl.brightness, sl.gen)

/-- What a log shows when real durations are left out (R47). -/
def shapes (segs : List Segment) : List (Level × SegClass) := segs.map Segment.shape

end Sys2Proof.Machine
end

