-- ==== Sys2Proof/Certificates/Slice0/Obligations.lean ====
section
/-! DEFINITION. The statements for the provers. Each docstring names the rule of spec/ it formalises. -/

open Sys2Proof Sys2Proof.Machine

/-! ### Reset and the step -/

/-- R152, R38, R114: the state after reset. -/
def Obligations.ResetLeavesBlockInert : Prop :=
  (∀ h sl, State.reset.slot? h = some sl → sl.active = false ∧ sl.buffer = none ∧ sl.gen = 0) ∧
  (∀ p, State.reset.levelOf p = none ∧ State.reset.waveOf p = []) ∧ State.reset.engine = .idle ∧
  State.reset.faulted = false ∧ State.reset.refused = false ∧ State.reset.tick = 0 ∧
  ∀ h E, State.reset.animOf h E = ⟨0, 0, .up⟩

/-- R38, R114, R115: the invariant of Safety.lean holds at reset. Its clauses about the order of draws, no negative
length, the least length of a latch, the canonical maps and the resolver are the model's (notes/assumptions/5.md, 11.md,
13.md, 14.md, 16.md). -/
def Obligations.InvariantHoldsAtReset : Prop := State.reset.Inv

/-- R13, R50: a pending command that decodes is what the step executes, taken from the queue. The queue is the model's
(notes/assumptions/1.md). -/
def Obligations.StepRunsDecodedCommand : Prop :=
  ∀ (s : State) c rest i, s.pending = .command c :: rest → decode c = .ok i → step s = exec i { s with pending := rest }

/-- R71: a command word whose opcode is not in the map of R59 changes nothing but the mark `refused`. The queue is the
model's (notes/assumptions/1.md), and so is that the mark stands in a next state (3.md). -/
def Obligations.StepMarksUnassignedOpcode : Prop :=
  ∀ (s : State) c rest, s.pending = .command c :: rest →
    c.op ∉ ([0x01, 0x02, 0x03, 0x04, 0x05, 0x06, 0x10, 0x11, 0x12, 0x13, 0x14, 0x20, 0x21, 0x30, 0x31, 0x32, 0x33, 0x34,
      0x35, 0x36, 0x3F] : List Byte) →
    step s = .next { s with pending := rest, refused := true, result := .refusal (.unassignedOpcode c.op) }

/-- The model's choice (notes/assumptions/2.md): operands that are not those of the opcode's format (R58) stop the run.
-/
def Obligations.StepStopsOnMalformedOperands : Prop :=
  ∀ (s : State) c rest op, s.pending = .command c :: rest → Opcode.ofByte c.op = some op → c.wellFormed = false →
    step s = .refused (.malformedOperands c.op)

/-- U24, R143: a command during which the executing context stalls for ever does not end, and no later command runs.
That the stall stands in the queue and that the run stops with a named fault are the model's (notes/assumptions/21.md).
-/
def Obligations.StepSticksInEndlessStall : Prop :=
  ∀ (s : State) c rest, s.pending = .stalled c :: rest →
    step s = .fault .stuck ∧ ∀ k : Nat, Sys2Proof.core.run (k + 1) s = .fault Fault.stuck

/-- R153: with no command issued the block waits. The queue is the model's (notes/assumptions/1.md). -/
def Obligations.StepWaitsForCommand : Prop := ∀ s : State, s.pending = [] → step s = .next s

/-! ### Encoding -/

/-- R57 to R59: words written out in 95_test_vectors.md (P1, P2, P4) and the opcode map decode to their commands. -/
def Obligations.SpecWordsDecode : Prop :=
  decode ⟨0x0201, [.pin ⟨7⟩, .u16 2, .u8 0x96]⟩ = .ok (.configure 2 ⟨7⟩ 2 150) ∧
  decode ⟨0x0014, [.u32 0x12C, .u32 0x7F, .u32 0xFFFFFFFF]⟩ = .ok (.ledFill 0 300 127 0xFFFFFFFF) ∧
  decode ⟨0x0503, []⟩ = .ok (.getLedCount 5) ∧
  decode ⟨0x0006, [.ref ⟨2, 1⟩, .u32 4, .u8 0xFF]⟩ = .ok (.bufWrite ⟨2, 1⟩ 4 255) ∧
  decode ⟨0x0034, [.u8 0x0A, .u8 0x14, .u8 0x1E, .u32 2]⟩ = .ok (.colorWipe 0 10 20 30 2) ∧
  decode ⟨0xAB21, []⟩ = .ok .sendAll ∧ decode ⟨0x003F, []⟩ = .ok .tick

/-- R57 to R60: decoding an encoded command gives it back, with every operand at every value. -/
def Obligations.EncodedCommandDecodes : Prop := ∀ i : Instr, decode (encode i) = .ok i

/-- R58, R59, R62: the decoder accepts exactly the commands whose opcode is assigned and whose operands fit its format.
-/
def Obligations.DecoderAcceptsExactlyWellFormed : Prop :=
  ∀ c : Command, (∃ i, decode c = .ok i) ↔ c.wellFormed = true

/-- R57, R58: a decoded command encodes back to its operands and its opcode, and to its whole command word where the
format has a handle; in the formats N, BR and BW the field H is ignored. -/
def Obligations.DecodedCommandEncodesBack : Prop :=
  ∀ c i op, decode c = .ok i → Opcode.ofByte c.op = some op →
    (encode i).operands = c.operands ∧ (encode i).op = c.op ∧
      (op.format ≠ .n → op.format ≠ .br → op.format ≠ .bw → encode i = c)

/-! ### Registry and buffer port -/

/-- R74: CONFIGURE. The three rejections change nothing; a failed allocation leaves the slot inert; success writes the
slot, drives the pin low and logs one low interval, whose length is free. -/
def Obligations.ConfigureFollowsRule : Prop :=
  ∀ h pin n br (s : State), ∃ t, exec (.configure h pin n br) s = .next t ∧
    (if 4 ≤ h.toNat ∨ n = 0 ∨ Config.resolve pin = none then t = { s with result := .success false }
    else ∃ sl p, s.slot? h = some sl ∧ Config.resolve pin = some p ∧
      (∀ k, k ≠ h → t.slot? k = s.slot? k) ∧ keepsMarks s t ∧ t.tick = s.tick ∧ t.anim = s.anim ∧ t.engine = s.engine ∧
      (if Config.allocOk s.draws n = true then
        t.slot? h = some ⟨true, pin, p, n, br, some (List.replicate n.toNat ⟨0, 0, 0⟩),
          if sl.active then sl.gen + 2 else sl.gen + 1⟩ ∧
        t.levelOf p = some .low ∧ (∃ d k, t.waveOf p = s.waveOf p ++ [⟨.low, .idle, d, k⟩]) ∧
        (∀ q, q ≠ p → t.levelOf q = s.levelOf q ∧ t.waveOf q = s.waveOf q) ∧ t.result = .success true
      else
        t.slot? h = some (if sl.active then { sl with active := false, buffer := none, gen := sl.gen + 1 } else sl) ∧
        t.level = s.level ∧ t.wave = s.wave ∧ t.result = .success false))

/-- R79: CONFIGURE with a handle below the capacity, a count of at least one, a resolvable pin and an allocator that
answers yes returns true, and GET_LED_COUNT then returns the count. The resolver's and the allocator's answers are
arguments of `configureWith`, which is what CONFIGURE runs on the platform's own answers. -/
def Obligations.ConfigurationLaw : Prop :=
  ∀ h pin n br (s : State),
    exec (.configure h pin n br) s =
      .next (s.configureWith (Config.resolve pin) (Config.allocOk s.draws n) h pin n br) ∧
    ∀ p t, h.toNat < 4 → n ≠ 0 → s.configureWith (some p) true h pin n br = t →
      t.result = .success true ∧ exec (.getLedCount h) t = .next { t with result := .count (.ofNat 32 n.toNat) }

/-- R81, R158: a CONFIGURE that passes validation leaves no earlier reference to its handle live, whatever the allocator
answers. A reference is earlier if its generation is at most the slot's. -/
def Obligations.ReconfigurationMakesReferencesStale : Prop :=
  ∀ h pin n br (s : State) sl p alloc (ref : BufRef), s.slot? h = some sl → n ≠ 0 → ref.handle = h → ref.gen ≤ sl.gen →
    (s.configureWith (some p) alloc h pin n br).live? ref = none

/-- R76, R77: LOOKUP. -/
def Obligations.LookupReturnsValidHandle : Prop :=
  ∀ h (s : State), exec (.lookup h) s = .next { s with
    result := .channel (if ∃ sl, s.slot? h = some sl ∧ sl.active = true then some h else none) }

/-- R78: GET_LED_COUNT. -/
def Obligations.GetLedCountReturnsCount : Prop :=
  ∀ h (s : State),
    (∀ sl, s.slot? h = some sl → sl.active = true →
      exec (.getLedCount h) s = .next { s with result := .count (sl.pixelCount.setWidth 32) }) ∧
    ((∀ sl, s.slot? h = some sl → sl.active = false) → exec (.getLedCount h) s = .next { s with result := .count 0 })

/-- R80: GET_BUFFER. -/
def Obligations.GetBufferReturnsReference : Prop :=
  ∀ h (s : State),
    (∀ sl, s.slot? h = some sl → sl.active = true →
      exec (.getBuffer h) s = .next { s with result := .reference (some ⟨h, sl.gen⟩) }) ∧
    ((∀ sl, s.slot? h = some sl → sl.active = false) →
      exec (.getBuffer h) s = .next { s with result := .reference none })

/-- R82: BUF_READ, with liveness as R81 defines it: first the reference, then the bound, then the byte. In a well-formed
memory the byte is, by R41, red, green or blue of the pixel that holds it, as the address is 0, 1 or 2 modulo 3. That a
fault is a next state is the model's (notes/assumptions/3.md). -/
def Obligations.BufReadReadsByteOrFaults : Prop :=
  ∀ (ref : BufRef) (a : Word) (s : State),
    ((∀ sl, s.slot? ref.handle = some sl → sl.active = true → sl.gen ≠ ref.gen) →
      exec (.bufRead ref a) s =
        .next { s with faulted := true, result := .fault (.staleBufferReference ref.handle ref.gen) }) ∧
    ∀ sl, s.slot? ref.handle = some sl → sl.active = true → sl.gen = ref.gen →
      exec (.bufRead ref a) s =
        (if 3 * sl.pixelCount.toNat ≤ a.toNat then
          .next { s with faulted := true, result := .fault (.bufferOutOfBounds ref.handle a) }
        else .next { s with result := .byte (sl.byteAt a.toNat) }) ∧
      (Memory.wf s = true → a.toNat < 3 * sl.pixelCount.toNat → ∃ px, sl.pixels[a.toNat / 3]? = some px ∧
        sl.byteAt a.toNat = if a.toNat % 3 = 0 then px.r else if a.toNat % 3 = 1 then px.g else px.b)

/-- R83: BUF_WRITE faults as BUF_READ and writes nothing then; otherwise the byte reads as written and every other byte
of every channel reads as before, and nothing else changes. By R41 the byte is red, green or blue of the pixel that
holds it, as the address is 0, 1 or 2 modulo 3. That a fault is a next state is the model's (notes/assumptions/3.md). -/
def Obligations.BufWriteWritesOneByteOrFaults : Prop :=
  ∀ (ref : BufRef) (a : Word) (v : Byte) (s : State), Memory.wf s = true →
    ((∀ sl, s.slot? ref.handle = some sl → sl.active = true → sl.gen ≠ ref.gen) →
      exec (.bufWrite ref a v) s =
        .next { s with faulted := true, result := .fault (.staleBufferReference ref.handle ref.gen) }) ∧
    ∀ sl, s.slot? ref.handle = some sl → sl.active = true → sl.gen = ref.gen →
      if 3 * sl.pixelCount.toNat ≤ a.toNat then
        exec (.bufWrite ref a v) s =
          .next { s with faulted := true, result := .fault (.bufferOutOfBounds ref.handle a) }
      else ∃ t, exec (.bufWrite ref a v) s = .next t ∧ t.byte? ref.handle a.toNat = some v ∧
        (∀ k b, k ≠ ref.handle ∨ b ≠ a.toNat → t.byte? k b = s.byte? k b) ∧
        t = { s with slots := t.slots, result := .nothing } ∧ (∀ k, k ≠ ref.handle → t.slot? k = s.slot? k) ∧
        ∃ u px, t.slot? ref.handle = some u ∧ u.descriptor = sl.descriptor ∧ sl.pixels[a.toNat / 3]? = some px ∧
          u.pixels = sl.pixels.set (a.toNat / 3) (if a.toNat % 3 = 0 then { px with r := v }
            else if a.toNat % 3 = 1 then { px with g := v } else { px with b := v })

/-- R84: the buffer port never moves a pin, never changes a slot's other fields and never touches another slot. -/
def Obligations.BufferPortMovesNoPin : Prop :=
  ∀ (ref : BufRef) (a : Word) (v : Byte) (s t : State),
    (exec (.bufRead ref a) s = .next t ∨ exec (.bufWrite ref a v) s = .next t) →
    t.level = s.level ∧ t.wave = s.wave ∧ (∀ k, k ≠ ref.handle → t.slot? k = s.slot? k) ∧
      ∀ sl, s.slot? ref.handle = some sl → ∃ u, t.slot? ref.handle = some u ∧ u.descriptor = sl.descriptor

/-! ### Fills -/

/-- R85, R91: a fill of an invalid handle does nothing; a fill of a valid handle writes every pixel of its buffer and,
in the reading of FILL_SENDS in which it does, sends every active channel by SEND_ALL, in ascending handle order; it
changes no other slot, no other field of its own and no host state. -/
def Obligations.FillWritesBufferAndSends : Prop :=
  ∀ sends h c (s : State), (s.channel? h = none → s.fillWith sends h c = { s with result := .nothing }) ∧
    ∀ sl, s.channel? h = some sl → ∃ t, s.fillWith sends h c = t ∧
      t.slot? h = some { sl with buffer := some (List.replicate sl.pixelCount.toNat c) } ∧
      (∀ k, k ≠ h → t.slot? k = s.slot? k) ∧ keepsMarks s t ∧ t.tick = s.tick ∧ t.anim = s.anim ∧ t.result = .nothing ∧
      (if sends then sentAll s t ∧ t.engine = .idle else t.level = s.level ∧ t.wave = s.wave ∧ t.engine = s.engine)

/-- R86 to R89: LED_OFF, LED_RED, LED_GREEN and LED_BLUE are fills in their colours, at FILL_SENDS = true (R6). -/
def Obligations.SolidFillsAreFills : Prop :=
  ∀ h (s : State),
    exec (.ledOff h) s = .next (s.fillWith true h ⟨0, 0, 0⟩) ∧ exec (.ledRed h) s = .next (s.fillWith true h ⟨255, 0, 0⟩) ∧
    exec (.ledGreen h) s = .next (s.fillWith true h ⟨0, 255, 0⟩) ∧
    exec (.ledBlue h) s = .next (s.fillWith true h ⟨0, 0, 255⟩)

/-- R90, R61: LED_FILL clamps each component to min(x, 255) on its own and fills with that colour. -/
def Obligations.LedFillClampsEachComponent : Prop :=
  ∀ h (r g b : Word) (s : State), ∃ x : Pixel, exec (.ledFill h r g b) s = .next (s.fillWith true h x) ∧
    x.r.toNat = min r.toNat 255 ∧ x.g.toNat = min g.toNat 255 ∧ x.b.toNat = min b.toNat 255

/-- R64: the four named fills equal LED_FILL in their colours. -/
def Obligations.NamedFillsEqualLedFill : Prop :=
  ∀ h (s : State),
    exec (.ledOff h) s = exec (.ledFill h 0 0 0) s ∧ exec (.ledRed h) s = exec (.ledFill h 255 0 0) s ∧
    exec (.ledGreen h) s = exec (.ledFill h 0 255 0) s ∧ exec (.ledBlue h) s = exec (.ledFill h 0 0 255) s

/-- R136: every per-channel command on an invalid handle writes no state and returns as listed. -/
def Obligations.InvalidHandleIsNoOp : Prop :=
  ∀ h (s : State), s.channel? h = none →
    exec (.lookup h) s = .next { s with result := .channel none } ∧
    exec (.getLedCount h) s = .next { s with result := .count 0 } ∧
    exec (.getBuffer h) s = .next { s with result := .reference none } ∧
    exec (.ledOff h) s = .next { s with result := .nothing } ∧ exec (.ledRed h) s = .next { s with result := .nothing } ∧
    exec (.ledGreen h) s = .next { s with result := .nothing } ∧
    exec (.ledBlue h) s = .next { s with result := .nothing } ∧
    (∀ r g b, exec (.ledFill h r g b) s = .next { s with result := .nothing }) ∧
    exec (.encodeAndSend h) s = .next { s with result := .nothing } ∧
    (∀ x speed E, exec (effectInstr h x speed E) s = .next { s with result := .nothing }) ∧
    (4 ≤ h.toNat → ∀ pin n br, exec (.configure h pin n br) s = .next { s with result := .success false })

/-! ### Encoder and transmission -/

/-- R94: the scaling function has the properties the spec fixes, and is the division rounded down. -/
def Obligations.ScalingMeetsRule : Prop :=
  ∀ v m : Nat, v ≤ 255 → m ≤ 255 →
    Config.mapFn 0 m = 0 ∧ Config.mapFn 255 m = m ∧ Config.mapFn v m ≤ m ∧
    (∀ u, u ≤ v → Config.mapFn u m ≤ Config.mapFn v m) ∧ |(Config.mapFn v m : ℚ) - (v * m : ℚ) / 255| < 1 ∧
    (Config.mapFn v m : ℤ) = ⌊(v * m : ℚ) / 255⌋

/-- R93, R95: the wire bytes are three a pixel, green, red, blue, each its component scaled to its ceiling: the
brightness for red, the brightness less 100 but not below 0 for green and blue. -/
def Obligations.WireBytesAreScaledComponents : Prop :=
  ∀ (sl : Slot) i px, i < sl.pixelCount.toNat → sl.pixels[i]? = some px →
    sl.wireBytes.length = 3 * sl.pixelCount.toNat ∧ ∃ g r b : Byte, sl.wireBytes[3 * i]? = some g ∧
      sl.wireBytes[3 * i + 1]? = some r ∧ sl.wireBytes[3 * i + 2]? = some b ∧
      (g.toNat : Int) = px.g.toNat * max ((sl.brightness.toNat : Int) - 100) 0 / 255 ∧
      (r.toNat : Int) = px.r.toNat * sl.brightness.toNat / 255 ∧
      (b.toNat : Int) = px.b.toNat * max ((sl.brightness.toNat : Int) - 100) 0 / 255

/-- R102, R70: ENCODE_AND_SEND of an invalid handle does nothing; of a valid handle it appends exactly the channel's
frame to its pin's log, 48 n + 1 segments, leaves the pin low and the engine idle, and changes nothing else but the
draws it took. -/
def Obligations.EncodeAndSendAppendsFrame : Prop :=
  ∀ h (s : State), (s.channel? h = none → exec (.encodeAndSend h) s = .next { s with result := .nothing }) ∧
    ∀ sl, s.channel? h = some sl → ∃ t new, exec (.encodeAndSend h) s = .next t ∧
      t.waveOf sl.portBit = s.waveOf sl.portBit ++ new ∧ new.map Segment.shape = sl.frame ∧
      new.length = 48 * sl.pixelCount.toNat + 1 ∧ t.levelOf sl.portBit = some .low ∧
      (∀ q, q ≠ sl.portBit → t.waveOf q = s.waveOf q ∧ t.levelOf q = s.levelOf q) ∧
      t = { s with level := t.level, wave := t.wave, engine := .idle, draws := t.draws, result := .nothing }

/-- R104, R52, R105: SEND_ALL appends to every pin's log the frames of the active channels on it, in ascending handle
order; the frames are serialised: all segments of a lower handle's frame come before all of a higher one's, whatever
pins they are on. Pins of active channels end low, other pins and everything else are unchanged but for the draws. -/
def Obligations.SendAllSendsActiveChannelsInOrder : Prop :=
  ∀ s : State, ∃ t, exec .sendAll s = .next t ∧
    (∃ start : Handle → Nat,
      (∀ h k sl, h.toNat < k.toNat → k.toNat < 4 → s.channel? h = some sl →
        start h + (48 * sl.pixelCount.toNat + 1) ≤ start k) ∧
      ∀ p, t.waveOf p = s.waveOf p ++ ([0, 1, 2, 3] : List Handle).flatMap fun h => s.frameOn p (start h) h) ∧
    (∀ p, s.inUse p → t.levelOf p = some .low) ∧ (∀ p, ¬ s.inUse p → t.levelOf p = s.levelOf p) ∧
    t = { s with level := t.level, wave := t.wave, engine := .idle, draws := t.draws, result := .nothing }

/-- R47: two SEND_ALL with no command between them that writes a buffer or configures a slot append the same sequence of
levels and classes to every pin's log. -/
def Obligations.SendAllTwiceSamePayload : Prop :=
  ∀ (s : State) (between : List Instr), (∀ i ∈ between, writesSlots i = false) →
    ∃ t u v, exec .sendAll s = .next t ∧ execAll between t = some u ∧ exec .sendAll u = .next v ∧
      ∀ p, ∃ x y, t.waveOf p = s.waveOf p ++ x ∧ v.waveOf p = u.waveOf p ++ y ∧
        x.map Segment.shape = y.map Segment.shape

/-- R109: the receiver reads what ENCODE_AND_SEND appends as exactly one frame, the channel's wire bytes. The durations
the machine drew are free values, so this is said of any durations of the segments appended, as long as the timing
premise of R163 holds of them. What the receiver does at the ends of a log is the model's (notes/assumptions/19.md); no
bits are left over here, so 22.md is not used. -/
def Obligations.ReceiverReadsWireBytes : Prop :=
  ∀ h (s : State) sl, Memory.wf s = true → s.channel? h = some sl → ∃ t new, exec (.encodeAndSend h) s = .next t ∧
    t.waveOf sl.portBit = s.waveOf sl.portBit ++ new ∧
    ∀ (T : Timing) (stall : Nat → Time) (segs : List Segment), segs.map Segment.shape = new.map Segment.shape →
      (∀ g ∈ segs, 0 ≤ g.d) → TimingPremise T stall segs → readFrames T segs = [sl.wireBytes]

/-- R162: the duration of a SHORT, LONG or LATCH segment is a draw within the tolerance of its class, plus, for the low
segment of a symbol only, an overhead within the greatest gap, plus a stall that is not negative; every combination of
such draws occurs, and an IDLE segment has any length. That no calibration draw is negative is the model's
(notes/assumptions/11.md). -/
def Obligations.SegmentDurationIsDraws : Prop :=
  ∀ (T : Timing) (k : Nat) (l : Level) (c : SegClass),
    (c ≠ .idle → ∀ D : Draws, ∃ t o, (segmentWith T D k l c).d = t + o + stallOf D k ∧ c.nominal T - T.tol ≤ t ∧
      t ≤ c.nominal T + T.tol ∧ 0 ≤ o ∧ o ≤ T.tGapMax ∧ (l = .high ∨ c = .latch → o = 0) ∧ 0 ≤ stallOf D k) ∧
    (c ≠ .idle → ∀ t o st : Time, 0 ≤ t → c.nominal T - T.tol ≤ t → t ≤ c.nominal T + T.tol → 0 ≤ o → o ≤ T.tGapMax →
      (l = .high ∨ c = .latch → o = 0) → 0 ≤ st → ∃ D : Draws, (segmentWith T D k l c).d = t + o + st ∧ stallOf D k = st) ∧
    ∀ x : Time, 0 ≤ x → ∃ D : Draws, (segmentWith T D k l .idle).d = x

/-- R69, R103: what any command but CONFIGURE appends to a pin's log is whole frames of channels on that pin, each
ending with a low LATCH segment that is at least T_LATCH less the tolerance, and at least T_RESET_MIN, long; and in
every log of a state that meets the invariant a stretch of low segments with a latch in it, as between two frames, is at
least T_RESET_MIN long. That the tolerance leaves the latch above T_RESET_MIN is the model's reading of R69
(notes/assumptions/13.md), and so is that no length is negative (11.md). -/
def Obligations.LatchEndsEveryFrame : Prop :=
  (∀ (i : Instr) (s t : State) p, isConfigure i = false → exec i s = .next t → ∃ frames : List (List Segment),
    t.waveOf p = s.waveOf p ++ frames.flatten ∧ ∀ f ∈ frames, ∃ h sl body g, t.channel? h = some sl ∧ sl.portBit = p ∧
      f.map Segment.shape = sl.frame ∧ f = body ++ [g] ∧ g.shape = (.low, .latch) ∧
      Config.timing.tLatch - Config.timing.tol ≤ g.d ∧ Config.timing.tResetMin ≤ g.d) ∧
  ∀ (s : State) p before gap after, s.Inv → s.waveOf p = before ++ gap ++ after → (∀ g ∈ gap, g.level = .low) →
    (∃ g ∈ gap, g.cls = .latch) → Config.timing.tResetMin ≤ (gap.map Segment.d).sum

/-- R163: with the parameters in its bounds (the third of which every `Timing` meets, R69), a frame whose every stall
draw is zero meets the timing premise. -/
def Obligations.UnstalledFrameMeetsPremise : Prop :=
  ∀ (T : Timing) (D : Draws) (k : Nat) (sl : Slot), T.tol < (T.tLong - T.tShort) / 2 →
    T.tLong + T.tol + T.tGapMax < T.tResetMin → T.tResetMin ≤ T.tLatch - T.tol →
    (∀ i, k ≤ i → i < k + (48 * sl.pixelCount.toNat + 1) → stallOf D i = 0) →
    TimingPremise T (stallOf D) (segmentsWith T D k sl.frame)

/-- R68: both symbols have the same nominal period, and a one is told by a longer high. -/
def Obligations.SymbolPeriodIsConstant : Prop :=
  ∀ T : Timing, nominalLength T (symbol true) = T.tBit ∧ nominalLength T (symbol false) = T.tBit ∧
    SegClass.nominal T .short < SegClass.nominal T .long

/-- R164: the real period of a symbol is within 2 TOL + T_GAP_MAX of the bit period when no stall occurs. -/
def Obligations.RealSymbolPeriodIsBounded : Prop :=
  ∀ (T : Timing) (D : Draws) (k : Nat) (bit : Bool), stallOf D k = 0 → stallOf D (k + 1) = 0 →
    |((segmentsWith T D k (symbol bit)).map Segment.d).sum - T.tBit| ≤ 2 * T.tol + T.tGapMax

/-- R110: the nominal length of a channel's frame. -/
def Obligations.FrameNominalLength : Prop :=
  ∀ (T : Timing) (sl : Slot), nominalLength T sl.frame = 24 * sl.pixelCount.toNat * T.tBit + T.tLatch

/-! ### The host agent -/

/-- R116: TICK. -/
def Obligations.TickAdvancesByOne : Prop :=
  ∀ s : State, exec .tick s = .next { s with tick := .ofNat 32 ((s.tick.toNat + 1) % 2 ^ 32), result := .nothing }

/-- R117, step 3 of R118: an effect that is not due returns without writing or sending. -/
def Obligations.NotDueEffectDoesNothing : Prop :=
  ∀ E h x speed (s : State) sl, effectRuns x E → s.channel? h = some sl →
    (s.tick - (s.animOf h E).last).toNat < speed.toNat →
    exec (effectInstr h x speed E) s = .next { s with result := .nothing }

/-- R118, R121: a due effect on a valid handle stamps its record, writes the pixels of that channel only, and sends
every active channel; no other record, slot or mark changes. -/
def Obligations.DueEffectFollowsContract : Prop :=
  ∀ E h x speed (s : State) sl, effectRuns x E → s.channel? h = some sl →
    speed.toNat ≤ (s.tick - (s.animOf h E).last).toNat →
    ∃ t u, exec (effectInstr h x speed E) s = .next t ∧ t.slot? h = some u ∧ u.descriptor = sl.descriptor ∧
      (∀ k, k ≠ h → t.slot? k = s.slot? k) ∧ (t.animOf h E).last = s.tick ∧
      (∀ k F, k ≠ h ∨ F ≠ E → t.animOf k F = s.animOf k F) ∧ sentAll s t ∧ t.engine = .idle ∧ t.tick = s.tick ∧
      keepsMarks s t ∧ t.result = .nothing

/-- R119: after a call that fired, a second call of the same effect fewer than `speed` ticks later does nothing. -/
def Obligations.SecondCallTooSoonDoesNothing : Prop :=
  ∀ E h x speed (s : State) sl (k : Nat), effectRuns x E → s.channel? h = some sl →
    speed.toNat ≤ (s.tick - (s.animOf h E).last).toNat → k < speed.toNat →
    ∃ t, exec (effectInstr h x speed E) s = .next t ∧
      exec (effectInstr h x speed E) { t with tick := t.tick + .ofNat 32 k } = .next { t with tick := t.tick + .ofNat 32 k }

/-- R124: RAINBOW's frame and advance. -/
def Obligations.RainbowFrame : Prop :=
  ∀ h speed (s : State) sl, s.channel? h = some sl → speed.toNat ≤ (s.tick - (s.animOf h .rainbow).last).toNat →
    ∃ t u, exec (.rainbow h speed) s = .next t ∧ t.channel? h = some u ∧ u.pixels.length = sl.pixelCount.toNat ∧
      (∀ i : Nat, i < sl.pixelCount.toNat →
        u.pixels[i]? = some (Config.wheel.color (.ofInt 8 ((i + (s.animOf h .rainbow).cursor) % 256)))) ∧
      (t.animOf h .rainbow).cursor = ((s.animOf h .rainbow).cursor + 1) % 256

/-- R125: RAINBOW_CYCLE's frame and advance. -/
def Obligations.RainbowCycleFrame : Prop :=
  ∀ h speed (s : State) sl, s.channel? h = some sl → speed.toNat ≤ (s.tick - (s.animOf h .rainbowCycle).last).toNat →
    ∃ t u, exec (.rainbowCycle h speed) s = .next t ∧ t.channel? h = some u ∧ u.pixels.length = sl.pixelCount.toNat ∧
      (∀ i : Nat, i < sl.pixelCount.toNat → u.pixels[i]? = some (Config.wheel.color
        (.ofInt 8 (((i : Int) * 256 / sl.pixelCount.toNat + (s.animOf h .rainbowCycle).cursor) % 256)))) ∧
      (t.animOf h .rainbowCycle).cursor = ((s.animOf h .rainbowCycle).cursor + 1) % 256

/-- R126: RAINBOWS's frame and advance, for a width that is not zero. -/
def Obligations.RainbowsFrame : Prop :=
  ∀ h (width : Half) speed (s : State) sl, width ≠ 0 → s.channel? h = some sl →
    speed.toNat ≤ (s.tick - (s.animOf h .rainbows).last).toNat →
    ∃ t u, exec (.rainbows h width speed) s = .next t ∧ t.channel? h = some u ∧ u.pixels.length = sl.pixelCount.toNat ∧
      (∀ i : Nat, i < sl.pixelCount.toNat → u.pixels[i]? = some (Config.wheel.color
        (.ofInt 8 (((i : Int) * 256 / width.toNat + (s.animOf h .rainbows).cursor) % 256)))) ∧
      (t.animOf h .rainbows).cursor = ((s.animOf h .rainbows).cursor + 1) % 256

/-- R126, R140: on a valid handle RAINBOWS with width zero faults, due or not, and writes nothing else. -/
def Obligations.RainbowsZeroWidthFaults : Prop :=
  ∀ h speed (s : State) sl, s.channel? h = some sl →
    exec (.rainbows h 0 speed) s = .next { s with faulted := true, result := .fault .zeroWidth }

/-- R127: THEATER_CHASE's frame and advance. -/
def Obligations.TheaterChaseFrame : Prop :=
  ∀ h r g b speed (s : State) sl, s.channel? h = some sl →
    speed.toNat ≤ (s.tick - (s.animOf h .theaterChase).last).toNat →
    ∃ t u, exec (.theaterChase h r g b speed) s = .next t ∧ t.channel? h = some u ∧
      u.pixels.length = sl.pixelCount.toNat ∧
      (∀ i : Nat, i < sl.pixelCount.toNat →
        u.pixels[i]? = some (if (i : Int) % 3 = (s.animOf h .theaterChase).cursor then ⟨r, g, b⟩ else ⟨0, 0, 0⟩)) ∧
      (t.animOf h .theaterChase).cursor = ((s.animOf h .theaterChase).cursor + 1) % 3

/-- R128: COLOR_WIPE sets the pixel at its cursor, or at 0 where the cursor is past the strip, and no other; the cursor
goes on by one and starts again at the end. -/
def Obligations.ColorWipeFrame : Prop :=
  ∀ h r g b speed (s : State) sl (c : Nat), Memory.wf s = true → s.channel? h = some sl →
    speed.toNat ≤ (s.tick - (s.animOf h .colorWipe).last).toNat → 0 ≤ (s.animOf h .colorWipe).cursor →
    c = (if (sl.pixelCount.toNat : Int) ≤ (s.animOf h .colorWipe).cursor then 0
      else (s.animOf h .colorWipe).cursor.toNat) →
    ∃ t u, exec (.colorWipe h r g b speed) s = .next t ∧ t.channel? h = some u ∧
      u.pixels.length = sl.pixelCount.toNat ∧ u.pixels[c]? = some ⟨r, g, b⟩ ∧
      (∀ i, i ≠ c → u.pixels[i]? = sl.pixels[i]?) ∧
      (t.animOf h .colorWipe).cursor = if c + 1 = sl.pixelCount.toNat then 0 else (c : Int) + 1

/-- R130: PULSE's frame, its components scaled by the cursor and rounded down, and its advance with the turn-around. -/
def Obligations.PulseFrame : Prop :=
  ∀ h (r g b : Byte) speed (s : State) sl, s.channel? h = some sl →
    speed.toNat ≤ (s.tick - (s.animOf h .pulse).last).toNat → 0 ≤ (s.animOf h .pulse).cursor →
    (s.animOf h .pulse).cursor ≤ 255 →
    ∃ t u, exec (.pulse h r g b speed) s = .next t ∧ t.channel? h = some u ∧ u.pixels.length = sl.pixelCount.toNat ∧
      (∀ px ∈ u.pixels, (px.r.toNat : Int) = r.toNat * (s.animOf h .pulse).cursor / 255 ∧
        (px.g.toNat : Int) = g.toNat * (s.animOf h .pulse).cursor / 255 ∧
        (px.b.toNat : Int) = b.toNat * (s.animOf h .pulse).cursor / 255) ∧
      (t.animOf h .pulse).cursor = (s.animOf h .pulse).cursor + (if (s.animOf h .pulse).dir = .up then 1 else -1) ∧
      (t.animOf h .pulse).dir = (if (t.animOf h .pulse).cursor = 255 then .down
        else if (t.animOf h .pulse).cursor = 0 then .up else (s.animOf h .pulse).dir)

/-- R131: FLASH's frame and advance, for a cursor it reaches. -/
def Obligations.FlashFrame : Prop :=
  ∀ h v speed (s : State) sl, s.channel? h = some sl → speed.toNat ≤ (s.tick - (s.animOf h .flash).last).toNat →
    0 ≤ (s.animOf h .flash).cursor → (s.animOf h .flash).cursor < 3 →
    ∃ t u, exec (.flash h v speed) s = .next t ∧ t.channel? h = some u ∧ u.pixels.length = sl.pixelCount.toNat ∧
      (∀ px ∈ u.pixels, ((s.animOf h .flash).cursor = 0 → px = ⟨v, 0, 0⟩) ∧
        ((s.animOf h .flash).cursor = 1 → px = ⟨0, v, 0⟩) ∧ ((s.animOf h .flash).cursor = 2 → px = ⟨0, 0, v⟩)) ∧
      (t.animOf h .flash).cursor = ((s.animOf h .flash).cursor + 1) % 3

/-- R129: from cursor 0, each due call of COLOR_WIPE lights the next pixel and leaves the rest, and after as many calls
as there are pixels all are lit and the cursor is 0 again. A speed of 0 makes every call due (R117). -/
def Obligations.ColorWipeLightsWholeStrip : Prop :=
  ∀ h r g b (s : State) sl, Memory.wf s = true → s.channel? h = some sl → (s.animOf h .colorWipe).cursor = 0 →
    ∀ k, k ≤ sl.pixelCount.toNat → ∃ t u, repeatExec (.colorWipe h r g b 0) k s = some t ∧ t.channel? h = some u ∧
      u.descriptor = sl.descriptor ∧ (∀ i, i < k → u.pixels[i]? = some ⟨r, g, b⟩) ∧
      (∀ i, k ≤ i → u.pixels[i]? = sl.pixels[i]?) ∧
      (t.animOf h .colorWipe).cursor = if k = sl.pixelCount.toNat then 0 else k

/-- R130: the cursor of PULSE goes 0, 1, ..., 255, 254, ..., 1 and again, each end once in 510 due calls. -/
def Obligations.PulsePingPongs : Prop :=
  ∀ h r g b (s : State) sl, s.channel? h = some sl → (s.animOf h .pulse).cursor = 0 → (s.animOf h .pulse).dir = .up →
    ∀ k : Nat, ∃ t, repeatExec (.pulse h r g b 0) k s = some t ∧
      (t.animOf h .pulse).cursor = if k % 510 ≤ 255 then ((k % 510 : Nat) : Int) else 510 - (k % 510 : Nat)

/-- R132: an effect changes no record of another effect or of another handle. -/
def Obligations.EffectsAreIndependent : Prop :=
  ∀ E F h k x speed (s t : State), exec (effectInstr h x speed E) s = .next t → k ≠ h ∨ F ≠ E →
    t.animOf k F = s.animOf k F

/-! ### The whole machine -/

/-- R19, R29, R30, R34, R69, R75, R115, R124 to R131: every step keeps the invariant of Safety.lean. Its clauses about
the order of draws, no negative length, the least length of a latch, the canonical maps and the resolver are the model's
(notes/assumptions/5.md, 11.md, 13.md, 14.md, 16.md). -/
def Obligations.EveryStepKeepsInvariant : Prop := ∀ s t : State, s.Inv → step s = .next t → t.Inv

/-- R9: every command, in every state, ends with a next state: in the model a fault and a refused opcode are marks and
results of a next state (notes/assumptions/3.md). -/
def Obligations.EveryCommandCompletes : Prop := ∀ (i : Instr) (s : State), ∃ t, exec i s = .next t

/-- R35, R36: no step clears the marks `faulted` and `refused`. -/
def Obligations.MarksAreSticky : Prop :=
  ∀ s t : State, step s = .next t → (s.faulted = true → t.faulted = true) ∧ (s.refused = true → t.refused = true)

/-- R145: a command that faults writes nothing but the mark and its outcome. -/
def Obligations.FaultWritesNothingElse : Prop :=
  ∀ (i : Instr) (s t : State) f, exec i s = .next t → t.result = .fault f →
    t = { s with faulted := true, result := .fault f }

/-- R18, R21, R22: no command but CONFIGURE writes a slot's activity, pin, count, brightness or generation. -/
def Obligations.OnlyConfigureWritesDescriptors : Prop :=
  ∀ (i : Instr) (s t : State), isConfigure i = false → exec i s = .next t → ∀ h sl, s.slot? h = some sl →
    ∃ u, t.slot? h = some u ∧ u.descriptor = sl.descriptor

/-- R24: no command lowers a slot's generation. -/
def Obligations.GenerationNeverDecreases : Prop :=
  ∀ (i : Instr) (s t : State), exec i s = .next t → ∀ h sl, s.slot? h = some sl →
    ∃ u, t.slot? h = some u ∧ sl.gen ≤ u.gen

/-- R113, R115: no command of the block reads or writes the host's tick and cursors: it leaves them as they are. -/
def Obligations.BlockCommandsLeaveHostState : Prop :=
  ∀ (i : Instr) (s t : State), isHostCommand i = false → exec i s = .next t → t.tick = s.tick ∧ t.anim = s.anim

/-- R20: nothing a step does or returns depends on the pin, resolved pin, count or brightness of an inert slot. -/
def Obligations.InertFieldsAreNotObservable : Prop :=
  ∀ s t s' : State, s.maskInert = t.maskInert → step s = .next s' →
    ∃ t', step t = .next t' ∧ s'.maskInert = t'.maskInert
end

