-- ==== Sys2Proof/Laws/PinMap.lean ====
section
/-! SUPPORT. Maps from pins: reading after a write, and that a write keeps the canonical form. -/

namespace Sys2Proof.Machine

variable {α : Type}

@[simp] theorem PinMap.get_nil (p : Pin) : PinMap.get p ([] : PinMap α) = none := rfl

theorem PinMap.get_set (p q : Pin) (v : α) (m : PinMap α) :
    (PinMap.set p v m).get q = if p = q then some v else m.get q := by
  induction m with
  | nil => simp [PinMap.set, PinMap.get]
  | cons a m ih =>
    obtain ⟨r, w⟩ := a
    simp only [PinMap.set]
    split_ifs with hr hb hq <;> simp only [PinMap.get]
    all_goals (split_ifs <;> simp_all)

@[simp] theorem PinMap.get_set_self (p : Pin) (v : α) (m : PinMap α) : (PinMap.set p v m).get p = some v := by
  simp [PinMap.get_set]

theorem PinMap.get_set_of_ne {p q : Pin} (h : p ≠ q) (v : α) (m : PinMap α) :
    (PinMap.set p v m).get q = m.get q := by
  simp [PinMap.get_set, h]

/-- A later value of a pin replaces an earlier one. -/
@[simp] theorem PinMap.set_set (p : Pin) (v w : α) (m : PinMap α) : PinMap.set p v (PinMap.set p w m) = PinMap.set p v m := by
  induction m with
  | nil => simp [PinMap.set]
  | cons a m ih =>
    obtain ⟨r, x⟩ := a
    by_cases hr : r = p
    · simp [PinMap.set, hr]
    · by_cases hb : pinBefore p r = true <;> simp [PinMap.set, hr, hb, ih]

theorem pinBefore_trans {p q r : Pin} (h : pinBefore p q = true) (h' : pinBefore q r = true) : pinBefore p r = true := by
  simp only [pinBefore, Bool.or_eq_true, decide_eq_true_eq, Bool.and_eq_true, beq_iff_eq] at *
  omega

theorem pinBefore_total {p q : Pin} (h : q ≠ p) (h' : pinBefore p q ≠ true) : pinBefore q p = true := by
  obtain ⟨a, b⟩ := p
  obtain ⟨c, d⟩ := q
  simp only [pinBefore, Bool.or_eq_true, decide_eq_true_eq, Bool.and_eq_true, beq_iff_eq, ne_eq, Pin.mk.injEq] at *
  omega

theorem PinMap.mem_set {p : Pin} {v : α} {m : PinMap α} {x : Pin × α} (h : x ∈ PinMap.set p v m) : x = (p, v) ∨ x ∈ m := by
  induction m with
  | nil => simpa [PinMap.set] using h
  | cons a m ih =>
    obtain ⟨r, w⟩ := a
    simp only [PinMap.set] at h
    split_ifs at h with hr hb
    · rcases List.mem_cons.1 h with h | h
      · exact .inl h
      · exact .inr (List.mem_cons_of_mem _ h)
    · rcases List.mem_cons.1 h with h | h
      · exact .inl h
      · exact .inr h
    · rcases List.mem_cons.1 h with h | h
      · exact .inr (h ▸ List.mem_cons_self)
      · exact (ih h).imp id (List.mem_cons_of_mem _)

/-- A write keeps the canonical form. -/
theorem PinMap.wf_set (p : Pin) (v : α) {m : PinMap α} (h : PinMap.wf m) : PinMap.wf (PinMap.set p v m) := by
  induction m with
  | nil => simp [PinMap.set, PinMap.wf]
  | cons a m ih =>
    obtain ⟨r, w⟩ := a
    obtain ⟨h1, h2⟩ := List.pairwise_cons.1 h
    simp only [PinMap.set]
    split_ifs with hr hb
    · subst hr
      exact List.pairwise_cons.2 ⟨h1, h2⟩
    · refine List.pairwise_cons.2 ⟨fun x hx => ?_, h⟩
      rcases List.mem_cons.1 hx with rfl | hx
      · exact hb
      · exact pinBefore_trans hb (h1 x hx)
    · refine List.pairwise_cons.2 ⟨fun x hx => ?_, ih h2⟩
      rcases PinMap.mem_set hx with rfl | hx
      · exact pinBefore_total hr hb
      · exact h1 x hx

end Sys2Proof.Machine
end

