-- ==== Sys2Proof/Laws/State.lean ====
section
/-! SUPPORT. What each update of the state does to each field: one lemma per field per update, true by definition. -/

namespace Sys2Proof.Machine

variable (s : State)

/-! ### `State.returns` -/

@[simp] theorem State.returns_slots (r : Result) : (State.returns r s).slots = s.slots := rfl
@[simp] theorem State.returns_level (r : Result) : (State.returns r s).level = s.level := rfl
@[simp] theorem State.returns_engine (r : Result) : (State.returns r s).engine = s.engine := rfl
@[simp] theorem State.returns_wave (r : Result) : (State.returns r s).wave = s.wave := rfl
@[simp] theorem State.returns_faulted (r : Result) : (State.returns r s).faulted = s.faulted := rfl
@[simp] theorem State.returns_refused (r : Result) : (State.returns r s).refused = s.refused := rfl
@[simp] theorem State.returns_tick (r : Result) : (State.returns r s).tick = s.tick := rfl
@[simp] theorem State.returns_anim (r : Result) : (State.returns r s).anim = s.anim := rfl
@[simp] theorem State.returns_pending (r : Result) : (State.returns r s).pending = s.pending := rfl
@[simp] theorem State.returns_result (r : Result) : (State.returns r s).result = r := rfl
@[simp] theorem State.returns_draws (r : Result) : (State.returns r s).draws = s.draws := rfl

/-! ### `State.raiseFault` -/

@[simp] theorem State.raiseFault_slots (f : Fault) : (State.raiseFault f s).slots = s.slots := rfl
@[simp] theorem State.raiseFault_level (f : Fault) : (State.raiseFault f s).level = s.level := rfl
@[simp] theorem State.raiseFault_engine (f : Fault) : (State.raiseFault f s).engine = s.engine := rfl
@[simp] theorem State.raiseFault_wave (f : Fault) : (State.raiseFault f s).wave = s.wave := rfl
@[simp] theorem State.raiseFault_faulted (f : Fault) : (State.raiseFault f s).faulted = true := rfl
@[simp] theorem State.raiseFault_refused (f : Fault) : (State.raiseFault f s).refused = s.refused := rfl
@[simp] theorem State.raiseFault_tick (f : Fault) : (State.raiseFault f s).tick = s.tick := rfl
@[simp] theorem State.raiseFault_anim (f : Fault) : (State.raiseFault f s).anim = s.anim := rfl
@[simp] theorem State.raiseFault_pending (f : Fault) : (State.raiseFault f s).pending = s.pending := rfl
@[simp] theorem State.raiseFault_result (f : Fault) : (State.raiseFault f s).result = .fault f := rfl
@[simp] theorem State.raiseFault_draws (f : Fault) : (State.raiseFault f s).draws = s.draws := rfl

/-! ### `State.refuseOpcode` -/

@[simp] theorem State.refuseOpcode_slots (op : Byte) : (State.refuseOpcode op s).slots = s.slots := rfl
@[simp] theorem State.refuseOpcode_level (op : Byte) : (State.refuseOpcode op s).level = s.level := rfl
@[simp] theorem State.refuseOpcode_engine (op : Byte) : (State.refuseOpcode op s).engine = s.engine := rfl
@[simp] theorem State.refuseOpcode_wave (op : Byte) : (State.refuseOpcode op s).wave = s.wave := rfl
@[simp] theorem State.refuseOpcode_faulted (op : Byte) : (State.refuseOpcode op s).faulted = s.faulted := rfl
@[simp] theorem State.refuseOpcode_refused (op : Byte) : (State.refuseOpcode op s).refused = true := rfl
@[simp] theorem State.refuseOpcode_tick (op : Byte) : (State.refuseOpcode op s).tick = s.tick := rfl
@[simp] theorem State.refuseOpcode_anim (op : Byte) : (State.refuseOpcode op s).anim = s.anim := rfl
@[simp] theorem State.refuseOpcode_pending (op : Byte) : (State.refuseOpcode op s).pending = s.pending := rfl
@[simp] theorem State.refuseOpcode_result (op : Byte) : (State.refuseOpcode op s).result = .refusal (.unassignedOpcode op) := rfl
@[simp] theorem State.refuseOpcode_draws (op : Byte) : (State.refuseOpcode op s).draws = s.draws := rfl

/-! ### `State.drive` -/

@[simp] theorem State.drive_slots (p : Pin) (l : Level) : (State.drive p l s).slots = s.slots := rfl
@[simp] theorem State.drive_level (p : Pin) (l : Level) : (State.drive p l s).level = s.level.set p l := rfl
@[simp] theorem State.drive_engine (p : Pin) (l : Level) : (State.drive p l s).engine = s.engine := rfl
@[simp] theorem State.drive_wave (p : Pin) (l : Level) : (State.drive p l s).wave = s.wave := rfl
@[simp] theorem State.drive_faulted (p : Pin) (l : Level) : (State.drive p l s).faulted = s.faulted := rfl
@[simp] theorem State.drive_refused (p : Pin) (l : Level) : (State.drive p l s).refused = s.refused := rfl
@[simp] theorem State.drive_tick (p : Pin) (l : Level) : (State.drive p l s).tick = s.tick := rfl
@[simp] theorem State.drive_anim (p : Pin) (l : Level) : (State.drive p l s).anim = s.anim := rfl
@[simp] theorem State.drive_pending (p : Pin) (l : Level) : (State.drive p l s).pending = s.pending := rfl
@[simp] theorem State.drive_result (p : Pin) (l : Level) : (State.drive p l s).result = s.result := rfl
@[simp] theorem State.drive_draws (p : Pin) (l : Level) : (State.drive p l s).draws = s.draws := rfl

/-! ### `State.emit` -/

@[simp] theorem State.emit_slots (p : Pin) (l : Level) (c : SegClass) : (State.emit p l c s).slots = s.slots := rfl
@[simp] theorem State.emit_level (p : Pin) (l : Level) (c : SegClass) : (State.emit p l c s).level = s.level := rfl
@[simp] theorem State.emit_engine (p : Pin) (l : Level) (c : SegClass) : (State.emit p l c s).engine = s.engine := rfl
@[simp] theorem State.emit_wave (p : Pin) (l : Level) (c : SegClass) : (State.emit p l c s).wave = s.wave.set p (s.waveOf p ++ [drawSegment s.draws l c]) := rfl
@[simp] theorem State.emit_faulted (p : Pin) (l : Level) (c : SegClass) : (State.emit p l c s).faulted = s.faulted := rfl
@[simp] theorem State.emit_refused (p : Pin) (l : Level) (c : SegClass) : (State.emit p l c s).refused = s.refused := rfl
@[simp] theorem State.emit_tick (p : Pin) (l : Level) (c : SegClass) : (State.emit p l c s).tick = s.tick := rfl
@[simp] theorem State.emit_anim (p : Pin) (l : Level) (c : SegClass) : (State.emit p l c s).anim = s.anim := rfl
@[simp] theorem State.emit_pending (p : Pin) (l : Level) (c : SegClass) : (State.emit p l c s).pending = s.pending := rfl
@[simp] theorem State.emit_result (p : Pin) (l : Level) (c : SegClass) : (State.emit p l c s).result = s.result := rfl
@[simp] theorem State.emit_draws (p : Pin) (l : Level) (c : SegClass) : (State.emit p l c s).draws = s.draws + 1 := rfl

/-! ### `State.setSlot` -/

@[simp] theorem State.setSlot_slots (h : Handle) (sl : Slot) : (State.setSlot h sl s).slots = s.slots.setIfInBounds h.toNat sl := rfl
@[simp] theorem State.setSlot_level (h : Handle) (sl : Slot) : (State.setSlot h sl s).level = s.level := rfl
@[simp] theorem State.setSlot_engine (h : Handle) (sl : Slot) : (State.setSlot h sl s).engine = s.engine := rfl
@[simp] theorem State.setSlot_wave (h : Handle) (sl : Slot) : (State.setSlot h sl s).wave = s.wave := rfl
@[simp] theorem State.setSlot_faulted (h : Handle) (sl : Slot) : (State.setSlot h sl s).faulted = s.faulted := rfl
@[simp] theorem State.setSlot_refused (h : Handle) (sl : Slot) : (State.setSlot h sl s).refused = s.refused := rfl
@[simp] theorem State.setSlot_tick (h : Handle) (sl : Slot) : (State.setSlot h sl s).tick = s.tick := rfl
@[simp] theorem State.setSlot_anim (h : Handle) (sl : Slot) : (State.setSlot h sl s).anim = s.anim := rfl
@[simp] theorem State.setSlot_pending (h : Handle) (sl : Slot) : (State.setSlot h sl s).pending = s.pending := rfl
@[simp] theorem State.setSlot_result (h : Handle) (sl : Slot) : (State.setSlot h sl s).result = s.result := rfl
@[simp] theorem State.setSlot_draws (h : Handle) (sl : Slot) : (State.setSlot h sl s).draws = s.draws := rfl

/-! ### `State.setAnim` -/

@[simp] theorem State.setAnim_slots (h : Handle) (E : Effect) (a : AnimRec) : (State.setAnim h E a s).slots = s.slots := rfl
@[simp] theorem State.setAnim_level (h : Handle) (E : Effect) (a : AnimRec) : (State.setAnim h E a s).level = s.level := rfl
@[simp] theorem State.setAnim_engine (h : Handle) (E : Effect) (a : AnimRec) : (State.setAnim h E a s).engine = s.engine := rfl
@[simp] theorem State.setAnim_wave (h : Handle) (E : Effect) (a : AnimRec) : (State.setAnim h E a s).wave = s.wave := rfl
@[simp] theorem State.setAnim_faulted (h : Handle) (E : Effect) (a : AnimRec) : (State.setAnim h E a s).faulted = s.faulted := rfl
@[simp] theorem State.setAnim_refused (h : Handle) (E : Effect) (a : AnimRec) : (State.setAnim h E a s).refused = s.refused := rfl
@[simp] theorem State.setAnim_tick (h : Handle) (E : Effect) (a : AnimRec) : (State.setAnim h E a s).tick = s.tick := rfl
@[simp] theorem State.setAnim_anim (h : Handle) (E : Effect) (a : AnimRec) : (State.setAnim h E a s).anim = s.anim.setIfInBounds h.toNat ((s.animBank h).set E.index a) := rfl
@[simp] theorem State.setAnim_pending (h : Handle) (E : Effect) (a : AnimRec) : (State.setAnim h E a s).pending = s.pending := rfl
@[simp] theorem State.setAnim_result (h : Handle) (E : Effect) (a : AnimRec) : (State.setAnim h E a s).result = s.result := rfl
@[simp] theorem State.setAnim_draws (h : Handle) (E : Effect) (a : AnimRec) : (State.setAnim h E a s).draws = s.draws := rfl

/-! ### `State.waitLatch` -/

@[simp] theorem State.waitLatch_slots : (State.waitLatch s).slots = s.slots := rfl
@[simp] theorem State.waitLatch_level : (State.waitLatch s).level = s.level := rfl
@[simp] theorem State.waitLatch_engine : (State.waitLatch s).engine = .idle := rfl
@[simp] theorem State.waitLatch_wave : (State.waitLatch s).wave = s.wave := rfl
@[simp] theorem State.waitLatch_faulted : (State.waitLatch s).faulted = s.faulted := rfl
@[simp] theorem State.waitLatch_refused : (State.waitLatch s).refused = s.refused := rfl
@[simp] theorem State.waitLatch_tick : (State.waitLatch s).tick = s.tick := rfl
@[simp] theorem State.waitLatch_anim : (State.waitLatch s).anim = s.anim := rfl
@[simp] theorem State.waitLatch_pending : (State.waitLatch s).pending = s.pending := rfl
@[simp] theorem State.waitLatch_result : (State.waitLatch s).result = s.result := rfl
@[simp] theorem State.waitLatch_draws : (State.waitLatch s).draws = s.draws := rfl

/-! ### Accessors, where an update leaves what they read -/

@[simp] theorem State.slot?_returns (r : Result) (k : Handle) : (State.returns r s).slot? k = s.slot? k := rfl
@[simp] theorem State.channel?_returns (r : Result) (k : Handle) : (State.returns r s).channel? k = s.channel? k := rfl
@[simp] theorem State.byte?_returns (r : Result) (k : Handle) (i : Nat) : (State.returns r s).byte? k i = s.byte? k i := rfl
@[simp] theorem State.levelOf_returns (r : Result) (q : Pin) : (State.returns r s).levelOf q = s.levelOf q := rfl
@[simp] theorem State.waveOf_returns (r : Result) (q : Pin) : (State.returns r s).waveOf q = s.waveOf q := rfl
@[simp] theorem State.animOf_returns (r : Result) (k : Handle) (F : Effect) : (State.returns r s).animOf k F = s.animOf k F := rfl
@[simp] theorem State.slot?_raiseFault (f : Fault) (k : Handle) : (State.raiseFault f s).slot? k = s.slot? k := rfl
@[simp] theorem State.channel?_raiseFault (f : Fault) (k : Handle) : (State.raiseFault f s).channel? k = s.channel? k := rfl
@[simp] theorem State.byte?_raiseFault (f : Fault) (k : Handle) (i : Nat) : (State.raiseFault f s).byte? k i = s.byte? k i := rfl
@[simp] theorem State.levelOf_raiseFault (f : Fault) (q : Pin) : (State.raiseFault f s).levelOf q = s.levelOf q := rfl
@[simp] theorem State.waveOf_raiseFault (f : Fault) (q : Pin) : (State.raiseFault f s).waveOf q = s.waveOf q := rfl
@[simp] theorem State.animOf_raiseFault (f : Fault) (k : Handle) (F : Effect) : (State.raiseFault f s).animOf k F = s.animOf k F := rfl
@[simp] theorem State.slot?_refuseOpcode (op : Byte) (k : Handle) : (State.refuseOpcode op s).slot? k = s.slot? k := rfl
@[simp] theorem State.channel?_refuseOpcode (op : Byte) (k : Handle) : (State.refuseOpcode op s).channel? k = s.channel? k := rfl
@[simp] theorem State.byte?_refuseOpcode (op : Byte) (k : Handle) (i : Nat) : (State.refuseOpcode op s).byte? k i = s.byte? k i := rfl
@[simp] theorem State.levelOf_refuseOpcode (op : Byte) (q : Pin) : (State.refuseOpcode op s).levelOf q = s.levelOf q := rfl
@[simp] theorem State.waveOf_refuseOpcode (op : Byte) (q : Pin) : (State.refuseOpcode op s).waveOf q = s.waveOf q := rfl
@[simp] theorem State.animOf_refuseOpcode (op : Byte) (k : Handle) (F : Effect) : (State.refuseOpcode op s).animOf k F = s.animOf k F := rfl
@[simp] theorem State.slot?_drive (p : Pin) (l : Level) (k : Handle) : (State.drive p l s).slot? k = s.slot? k := rfl
@[simp] theorem State.channel?_drive (p : Pin) (l : Level) (k : Handle) : (State.drive p l s).channel? k = s.channel? k := rfl
@[simp] theorem State.byte?_drive (p : Pin) (l : Level) (k : Handle) (i : Nat) : (State.drive p l s).byte? k i = s.byte? k i := rfl
@[simp] theorem State.waveOf_drive (p : Pin) (l : Level) (q : Pin) : (State.drive p l s).waveOf q = s.waveOf q := rfl
@[simp] theorem State.animOf_drive (p : Pin) (l : Level) (k : Handle) (F : Effect) : (State.drive p l s).animOf k F = s.animOf k F := rfl
@[simp] theorem State.slot?_emit (p : Pin) (l : Level) (c : SegClass) (k : Handle) : (State.emit p l c s).slot? k = s.slot? k := rfl
@[simp] theorem State.channel?_emit (p : Pin) (l : Level) (c : SegClass) (k : Handle) : (State.emit p l c s).channel? k = s.channel? k := rfl
@[simp] theorem State.byte?_emit (p : Pin) (l : Level) (c : SegClass) (k : Handle) (i : Nat) : (State.emit p l c s).byte? k i = s.byte? k i := rfl
@[simp] theorem State.levelOf_emit (p : Pin) (l : Level) (c : SegClass) (q : Pin) : (State.emit p l c s).levelOf q = s.levelOf q := rfl
@[simp] theorem State.animOf_emit (p : Pin) (l : Level) (c : SegClass) (k : Handle) (F : Effect) : (State.emit p l c s).animOf k F = s.animOf k F := rfl
@[simp] theorem State.levelOf_setSlot (h : Handle) (sl : Slot) (q : Pin) : (State.setSlot h sl s).levelOf q = s.levelOf q := rfl
@[simp] theorem State.waveOf_setSlot (h : Handle) (sl : Slot) (q : Pin) : (State.setSlot h sl s).waveOf q = s.waveOf q := rfl
@[simp] theorem State.animOf_setSlot (h : Handle) (sl : Slot) (k : Handle) (F : Effect) : (State.setSlot h sl s).animOf k F = s.animOf k F := rfl
@[simp] theorem State.slot?_setAnim (h : Handle) (E : Effect) (a : AnimRec) (k : Handle) : (State.setAnim h E a s).slot? k = s.slot? k := rfl
@[simp] theorem State.channel?_setAnim (h : Handle) (E : Effect) (a : AnimRec) (k : Handle) : (State.setAnim h E a s).channel? k = s.channel? k := rfl
@[simp] theorem State.byte?_setAnim (h : Handle) (E : Effect) (a : AnimRec) (k : Handle) (i : Nat) : (State.setAnim h E a s).byte? k i = s.byte? k i := rfl
@[simp] theorem State.levelOf_setAnim (h : Handle) (E : Effect) (a : AnimRec) (q : Pin) : (State.setAnim h E a s).levelOf q = s.levelOf q := rfl
@[simp] theorem State.waveOf_setAnim (h : Handle) (E : Effect) (a : AnimRec) (q : Pin) : (State.setAnim h E a s).waveOf q = s.waveOf q := rfl
@[simp] theorem State.slot?_waitLatch (k : Handle) : (State.waitLatch s).slot? k = s.slot? k := rfl
@[simp] theorem State.channel?_waitLatch (k : Handle) : (State.waitLatch s).channel? k = s.channel? k := rfl
@[simp] theorem State.byte?_waitLatch (k : Handle) (i : Nat) : (State.waitLatch s).byte? k i = s.byte? k i := rfl
@[simp] theorem State.levelOf_waitLatch (q : Pin) : (State.waitLatch s).levelOf q = s.levelOf q := rfl
@[simp] theorem State.waveOf_waitLatch (q : Pin) : (State.waitLatch s).waveOf q = s.waveOf q := rfl
@[simp] theorem State.animOf_waitLatch (k : Handle) (F : Effect) : (State.waitLatch s).animOf k F = s.animOf k F := rfl

end Sys2Proof.Machine
end

