-- ==== Sys2Proof/Laws/Slots.lean ====
section
/-! SUPPORT. Slots, channels and animation records: what a read gives after a write, and what a channel is. -/

namespace Sys2Proof.Machine

/-- A channel is an active slot (R76). -/
theorem State.channel?_eq_some {s : State} {h : Handle} {sl : Slot} :
    s.channel? h = some sl ↔ s.slot? h = some sl ∧ sl.active = true := by
  simp [State.channel?, Option.filter_eq_some_iff]

theorem State.slot?_isSome_iff (s : State) (h : Handle) : (s.slot? h).isSome ↔ h.toNat < Config.maxChannels := by
  simp [State.slot?]

theorem State.slot?_eq_none_iff (s : State) (h : Handle) : s.slot? h = none ↔ Config.maxChannels ≤ h.toNat := by
  simp [State.slot?]

theorem State.lt_of_slot? {s : State} {h : Handle} {sl : Slot} (e : s.slot? h = some sl) : h.toNat < Config.maxChannels :=
  (s.slot?_isSome_iff h).1 (by simp [e])

/-- A slot reads as it was written. -/
theorem State.slot?_setSlot_self {s : State} {h : Handle} (lt : h.toNat < Config.maxChannels) (sl : Slot) :
    (s.setSlot h sl).slot? h = some sl := by
  simp [State.slot?, State.setSlot, lt]

/-- A write to one slot leaves every other slot as it was. -/
theorem State.slot?_setSlot_of_ne {s : State} {h k : Handle} (ne : h ≠ k) (sl : Slot) :
    (s.setSlot h sl).slot? k = s.slot? k := by
  have : h.toNat ≠ k.toNat := fun e => ne (BitVec.eq_of_toNat_eq e)
  simp [State.slot?, State.setSlot, this]

theorem State.channel?_setSlot_of_ne {s : State} {h k : Handle} (ne : h ≠ k) (sl : Slot) :
    (s.setSlot h sl).channel? k = s.channel? k := by
  simp [State.channel?, State.slot?_setSlot_of_ne ne]

theorem State.channel?_setSlot_self {s : State} {h : Handle} (lt : h.toNat < Config.maxChannels) {sl : Slot}
    (act : sl.active = true) : (s.setSlot h sl).channel? h = some sl := by
  simp [State.channel?_eq_some, State.slot?_setSlot_self lt, act]

theorem State.byte?_setSlot_of_ne {s : State} {h k : Handle} (ne : h ≠ k) (sl : Slot) (a : Nat) :
    (s.setSlot h sl).byte? k a = s.byte? k a := by
  simp [State.byte?, State.channel?_setSlot_of_ne ne]

/-- Slots that agree make channels that agree. -/
theorem State.channel?_congr {s t : State} (e : t.slots = s.slots) (h : Handle) : t.channel? h = s.channel? h := by
  simp [State.channel?, State.slot?, e]

theorem Effect.index_injective {E F : Effect} (h : E.index = F.index) : E = F := by
  cases E <;> cases F <;> first | rfl | exact absurd h (by decide)

/-- An animation record reads as it was written. -/
theorem State.animOf_setAnim_self {s : State} {h : Handle} (lt : h.toNat < Config.maxChannels) (E : Effect) (a : AnimRec) :
    (s.setAnim h E a).animOf h E = a := by
  simp [State.animOf, State.animBank, State.setAnim, lt]

/-- A write to one record leaves every other effect's and every other handle's as it was (R132). -/
theorem State.animOf_setAnim_of_ne {s : State} {h k : Handle} {E F : Effect} (ne : h ≠ k ∨ E ≠ F) (a : AnimRec) :
    (s.setAnim h E a).animOf k F = s.animOf k F := by
  by_cases hk : h.toNat = k.toNat
  · obtain rfl := BitVec.eq_of_toNat_eq hk
    have hE : E.index ≠ F.index := fun e => (ne.resolve_left (fun n => n rfl)) (Effect.index_injective e)
    have hE' : (E.index : Nat) ≠ F.index := fun e => hE (Fin.ext e)
    by_cases lt : h.toNat < Config.maxChannels
    · simp [State.animOf, State.animBank, State.setAnim, lt, hE']
    · simp [State.animOf, State.animBank, State.setAnim, lt]
  · simp [State.animOf, State.animBank, State.setAnim, hk]

end Sys2Proof.Machine
end

