-- ==== Sys2Proof/Laws/Engine.lean ====
section
/-! SUPPORT. The pulse-timing engine: everything a transmission does (R98 to R105), said once for one channel and once
for SEND_ALL. -/

namespace Sys2Proof.Machine

/-! ### Segments -/

@[simp] theorem drawSegment_shape (k : Nat) (l : Level) (c : SegClass) : (drawSegment k l c).shape = (l, c) := rfl

@[simp] theorem drawSegment_seq (k : Nat) (l : Level) (c : SegClass) : (drawSegment k l c).seq = k := rfl

theorem segments_nil (k : Nat) : segments k [] = [] := rfl

theorem segments_cons (k : Nat) (x : Level × SegClass) (xs : List (Level × SegClass)) :
    segments k (x :: xs) = drawSegment k x.1 x.2 :: segments (k + 1) xs := rfl

theorem segments_append (k : Nat) (xs ys : List (Level × SegClass)) :
    segments k (xs ++ ys) = segments k xs ++ segments (k + xs.length) ys := by
  induction xs generalizing k with
  | nil => rfl
  | cons x xs ih =>
    simp only [List.cons_append, segments_cons, ih, List.length_cons]
    rw [Nat.add_right_comm, Nat.add_assoc]

@[simp] theorem segments_map_shape (k : Nat) (xs : List (Level × SegClass)) : (segments k xs).map Segment.shape = xs := by
  induction xs generalizing k with
  | nil => rfl
  | cons x xs ih => simp [segments_cons, ih]

@[simp] theorem segments_length (k : Nat) (xs : List (Level × SegClass)) : (segments k xs).length = xs.length := by
  have e := congrArg List.length (segments_map_shape k xs)
  rwa [List.length_map] at e

/-- The draws of consecutive segments are consecutive. -/
theorem segments_seq (k : Nat) (xs : List (Level × SegClass)) :
    (segments k xs).map Segment.seq = List.range' k xs.length := by
  induction xs generalizing k with
  | nil => rfl
  | cons x xs ih => simp [segments_cons, ih, List.range'_succ]

theorem mem_segments_seq {k : Nat} {xs : List (Level × SegClass)} {g : Segment} (h : g ∈ segments k xs) :
    k ≤ g.seq ∧ g.seq < k + xs.length := by
  have : g.seq ∈ (segments k xs).map Segment.seq := List.mem_map_of_mem h
  rw [segments_seq, List.mem_range'_1] at this
  exact this

/-! ### Logs after an emission -/

theorem State.waveOf_emit_self (p : Pin) (l : Level) (c : SegClass) (s : State) :
    (State.emit p l c s).waveOf p = s.waveOf p ++ [drawSegment s.draws l c] := by
  simp [State.waveOf]

theorem State.waveOf_emit_of_ne {p q : Pin} (ne : p ≠ q) (l : Level) (c : SegClass) (s : State) :
    (State.emit p l c s).waveOf q = s.waveOf q := by
  simp [State.waveOf, PinMap.get_set_of_ne ne]

theorem State.levelOf_drive_self (p : Pin) (l : Level) (s : State) : (State.drive p l s).levelOf p = some l := by
  simp [State.levelOf]

theorem State.levelOf_drive_of_ne {p q : Pin} (ne : p ≠ q) (l : Level) (s : State) :
    (State.drive p l s).levelOf q = s.levelOf q := by
  simp [State.levelOf, PinMap.get_set_of_ne ne]

/-! ### One channel -/

/-- The levels and classes a channel's transmission emits, in order (R98); they do not depend on its handle. -/
def Slot.sent (sl : Slot) : List (Level × SegClass) := (positions 0 sl.pixelCount.toNat).map sl.shapeAt

theorem Slot.sent_eq (sl : Slot) (h : Handle) : (positions h sl.pixelCount.toNat).map sl.shapeAt = sl.sent := by
  simp [Slot.sent, positions, List.map_flatMap, Slot.shapeAt]

theorem positions_length (h : Handle) (n : Nat) : (positions h n).length = 48 * n + 1 := by
  simp [positions, List.length_flatMap, wireOrder, bitOrder]
  omega

/-- R100: two segments a bit and the latch. -/
@[simp] theorem Slot.sent_length (sl : Slot) : sl.sent.length = 48 * sl.pixelCount.toNat + 1 := by
  simp [Slot.sent, positions_length]

/-- What a run of phases leaves: the last one's level on the pin, their segments at the end of its log, and as many
draws taken. -/
theorem State.phases_eq (sl : Slot) (ps : List Pos) (pos : Pos) (s : State) :
    (ps ++ [pos]).foldl (State.phase sl) s =
      { s with
        engine := .at pos
        level := s.level.set sl.portBit (sl.shapeAt pos).1
        wave := s.wave.set sl.portBit (s.waveOf sl.portBit ++ segments s.draws ((ps ++ [pos]).map sl.shapeAt))
        draws := s.draws + (ps.length + 1) } := by
  induction ps using List.reverseRecOn generalizing pos with
  | nil => rfl
  | append_singleton ps q ih =>
    rw [List.foldl_append, ih]
    simp only [List.foldl_cons, List.foldl_nil, State.phase, State.emit, State.drive, State.waveOf, PinMap.get_set_self,
      PinMap.set_set, Option.getD_some, List.map_append, List.map_cons, List.map_nil, List.length_append,
      List.length_cons, List.length_nil, List.length_map, segments_append, segments_cons, segments_nil, List.append_assoc,
      Nat.zero_add, Nat.add_assoc]

/-- SendChannel (R98): the channel's pin is low, its log ends with the frame's segments, the draws they took are taken,
the engine is idle, and nothing else has changed. -/
theorem State.sendChannel_eq (h : Handle) (sl : Slot) (s : State) :
    s.sendChannel h sl =
      { s with
        engine := .idle
        level := s.level.set sl.portBit .low
        wave := s.wave.set sl.portBit (s.waveOf sl.portBit ++ segments s.draws sl.sent)
        draws := s.draws + (48 * sl.pixelCount.toNat + 1) } := by
  have split : positions h sl.pixelCount.toNat = _ ++ [_] := rfl
  have len := positions_length h sl.pixelCount.toNat
  rw [split, List.length_append, List.length_singleton] at len
  rw [State.sendChannel, split, State.phases_eq, ← split, Slot.sent_eq, len]
  rfl

/-! ### SEND_ALL -/

/-- What no transmission touches stays as it was in SEND_ALL. -/
theorem State.sendAll_preserves {β : Type} (f : State → β) (hw : ∀ s, f (State.waitLatch s) = f s)
    (hc : ∀ (s : State) h sl, f (s.sendChannel h sl) = f s) (s : State) : f s.sendAll = f s := by
  have step : ∀ (s : State) h, f (s.sendHandle h) = f s := by
    intro s h
    unfold State.sendHandle
    split
    · exact hc _ _ _
    · rfl
  have all : ∀ (hs : List Handle) (s : State), f (hs.foldl State.sendHandle s) = f s := by
    intro hs
    induction hs with
    | nil => intro s; rfl
    | cons h hs ih => intro s; rw [List.foldl_cons, ih, step]
  rw [State.sendAll, hw, all]

@[simp] theorem State.sendAll_slots (s : State) : s.sendAll.slots = s.slots :=
  State.sendAll_preserves State.slots (fun _ => rfl) (fun _ _ _ => by rw [State.sendChannel_eq]) s
@[simp] theorem State.sendAll_faulted (s : State) : s.sendAll.faulted = s.faulted :=
  State.sendAll_preserves State.faulted (fun _ => rfl) (fun _ _ _ => by rw [State.sendChannel_eq]) s
@[simp] theorem State.sendAll_refused (s : State) : s.sendAll.refused = s.refused :=
  State.sendAll_preserves State.refused (fun _ => rfl) (fun _ _ _ => by rw [State.sendChannel_eq]) s
@[simp] theorem State.sendAll_tick (s : State) : s.sendAll.tick = s.tick :=
  State.sendAll_preserves State.tick (fun _ => rfl) (fun _ _ _ => by rw [State.sendChannel_eq]) s
@[simp] theorem State.sendAll_anim (s : State) : s.sendAll.anim = s.anim :=
  State.sendAll_preserves State.anim (fun _ => rfl) (fun _ _ _ => by rw [State.sendChannel_eq]) s
@[simp] theorem State.sendAll_pending (s : State) : s.sendAll.pending = s.pending :=
  State.sendAll_preserves State.pending (fun _ => rfl) (fun _ _ _ => by rw [State.sendChannel_eq]) s
@[simp] theorem State.sendAll_result (s : State) : s.sendAll.result = s.result :=
  State.sendAll_preserves State.result (fun _ => rfl) (fun _ _ _ => by rw [State.sendChannel_eq]) s
@[simp] theorem State.sendAll_engine (s : State) : s.sendAll.engine = .idle := rfl

@[simp] theorem State.channel?_sendAll (s : State) (h : Handle) : s.sendAll.channel? h = s.channel? h :=
  State.channel?_congr s.sendAll_slots h

@[simp] theorem State.animOf_sendAll (s : State) (h : Handle) (E : Effect) : s.sendAll.animOf h E = s.animOf h E := by
  simp [State.animOf, State.animBank]

/-- The levels and classes SEND_ALL appends to a pin's log: the frames of the active channels on that pin, in
ascending handle order (R104). -/
def State.sentOn (s : State) (p : Pin) (hs : List Handle) : List (Level × SegClass) :=
  hs.flatMap fun h => match s.channel? h with
    | some sl => if sl.portBit = p then sl.sent else []
    | none => []

theorem State.sentOn_congr {s t : State} (e : t.slots = s.slots) (p : Pin) (hs : List Handle) :
    t.sentOn p hs = s.sentOn p hs := by
  unfold State.sentOn
  simp only [State.channel?_congr e]

theorem State.sendHandle_slots (s : State) (h : Handle) : (s.sendHandle h).slots = s.slots := by
  unfold State.sendHandle
  split
  · rw [State.sendChannel_eq]
  · rfl

/-- What sending handles appends to a pin's log. -/
theorem State.foldl_sendHandle_waveOf (p : Pin) (hs : List Handle) (s : State) :
    ∃ new, (hs.foldl State.sendHandle s).waveOf p = s.waveOf p ++ new ∧ new.map Segment.shape = s.sentOn p hs := by
  induction hs generalizing s with
  | nil => exact ⟨[], by simp, rfl⟩
  | cons h hs ih =>
    obtain ⟨new, e, shape⟩ := ih (s.sendHandle h)
    rw [State.sentOn_congr (s.sendHandle_slots h)] at shape
    rcases hc : s.channel? h with _ | sl
    · refine ⟨new, ?_, ?_⟩
      · simpa [State.sendHandle, hc] using e
      · simpa [State.sentOn, hc] using shape
    · by_cases hp : sl.portBit = p
      · subst hp
        refine ⟨segments s.draws sl.sent ++ new, ?_, ?_⟩
        · simp only [State.sendHandle, hc, State.sendChannel_eq] at e
          simp only [List.foldl_cons, State.sendHandle, hc, State.sendChannel_eq, e]
          simp [State.waveOf]
        · rw [List.map_append, segments_map_shape, shape]
          simp [State.sentOn, hc]
      · refine ⟨new, ?_, ?_⟩
        · simp only [State.sendHandle, hc, State.sendChannel_eq] at e
          simp only [List.foldl_cons, State.sendHandle, hc, State.sendChannel_eq, e]
          simp [State.waveOf, PinMap.get_set_of_ne hp]
        · rw [shape]
          simp [State.sentOn, hc, hp]

/-- SEND_ALL (R104): what it appends to a pin's log. -/
theorem State.waveOf_sendAll (s : State) (p : Pin) :
    ∃ new, s.sendAll.waveOf p = s.waveOf p ++ new ∧ new.map Segment.shape = s.sentOn p handles :=
  State.foldl_sendHandle_waveOf p handles s

end Sys2Proof.Machine
end

