-- ==== Sys2Proof/Laws/Memory.lean ====
section
/-! SUPPORT. The buffers: every memory operation keeps their form (R19, R75), and a byte reads as it was written (R42). -/

namespace Sys2Proof.Machine

theorem Memory.wf_reset : Memory.wf State.reset = true := by decide

/-- Memory keeps its form where one slot is replaced by a slot that has it. -/
theorem Memory.wf_setSlot {s : State} (w : Memory.wf s = true) (h : Handle) {sl : Slot} (ok : sl.bufferOk = true) :
    Memory.wf (s.setSlot h sl) = true := by
  simp only [Memory.wf, List.all_eq_true, Vector.mem_toList_iff] at *
  intro x hx
  obtain ⟨i, hi, rfl⟩ := Vector.mem_iff_getElem.1 hx
  by_cases e : h.toNat = i
  · subst e
    simpa using ok
  · have := w _ (Vector.getElem_mem (xs := s.slots) hi)
    simpa [Vector.getElem_setIfInBounds, e] using this

/-- Memory's form is a matter of the slots alone. -/
theorem Memory.wf_congr {s t : State} (e : t.slots = s.slots) : Memory.wf t = Memory.wf s := by
  simp [Memory.wf, e]

theorem Memory.bufferOk_of_slot? {s : State} (w : Memory.wf s = true) {h : Handle} {sl : Slot} (e : s.slot? h = some sl) :
    sl.bufferOk = true := by
  simp only [Memory.wf, List.all_eq_true, Vector.mem_toList_iff] at w
  exact w sl (Vector.mem_of_getElem? e)

/-- What the form says of an active slot (R19). -/
theorem Slot.bufferOk_active {sl : Slot} (ok : sl.bufferOk = true) (act : sl.active = true) :
    1 ≤ sl.pixelCount.toNat ∧ sl.pixels.length = sl.pixelCount.toNat := by
  unfold Slot.bufferOk at ok
  unfold Slot.pixels
  split at ok <;> simp_all

/-- A slot whose pixels are replaced by as many keeps its form. -/
theorem Slot.bufferOk_withPixels {sl : Slot} (act : sl.active = true) (pos : 1 ≤ sl.pixelCount.toNat) {b : Buffer}
    (len : b.length = sl.pixelCount.toNat) : (sl.withPixels b).bufferOk = true := by
  simp [Slot.bufferOk, Slot.withPixels, act, pos, len]

theorem Slot.bufferOk_writeByte {sl : Slot} (ok : sl.bufferOk = true) (act : sl.active = true) (a : Nat) (v : Byte) :
    (sl.writeByte a v).bufferOk = true :=
  Slot.bufferOk_withPixels act (sl.bufferOk_active ok act).1 (by simp [(sl.bufferOk_active ok act).2])

theorem Slot.bufferOk_filled {sl : Slot} (ok : sl.bufferOk = true) (act : sl.active = true) (c : Pixel) :
    (sl.filled c).bufferOk = true :=
  Slot.bufferOk_withPixels act (sl.bufferOk_active ok act).1 (by simp)

theorem Slot.bufferOk_released {sl : Slot} (ok : sl.bufferOk = true) : sl.released.bufferOk = true := by
  unfold Slot.released
  split
  · rfl
  · exact ok

theorem Slot.bufferOk_configured (pin : PinToken) (p : Pin) {n : Half} (pos : n ≠ 0) (br : Byte) (sl : Slot) :
    (sl.configured pin p n br).bufferOk = true := by
  have ne : n.toNat ≠ 0 := fun e => pos (BitVec.eq_of_toNat_eq (by simpa using e))
  have le : 1 ≤ n.toNat := Nat.one_le_iff_ne_zero.2 ne
  simp only [Slot.bufferOk, Slot.configured, List.length_replicate, le, decide_true, beq_self_eq_true, Bool.and_self]

@[simp] theorem frameOf_length (n : Nat) (px : Nat → Pixel) : (frameOf n px).length = n := by simp [frameOf]

theorem frameOf_getD {n i : Nat} (lt : i < n) (px : Nat → Pixel) (d : Pixel) : (frameOf n px).getD i d = px i := by
  simp [frameOf, lt]

@[simp] theorem pixelComponent_setPixelComponent_self (v : Byte) (c : Nat) (px : Pixel) :
    pixelComponent (setPixelComponent v c px) c = v := by
  match c with
  | 0 => rfl
  | 1 => rfl
  | _ + 2 => rfl

theorem pixelComponent_setPixelComponent_of_ne (v : Byte) {c e : Nat} (hc : c < 3) (he : e < 3) (ne : c ≠ e) (px : Pixel) :
    pixelComponent (setPixelComponent v c px) e = pixelComponent px e := by
  interval_cases c <;> interval_cases e <;> first | rfl | exact absurd rfl ne

/-- A byte reads as it was written (R42). -/
theorem Slot.byteAt_writeByte_self {sl : Slot} {a : Nat} (lt : a / 3 < sl.pixels.length) (v : Byte) :
    (sl.writeByte a v).byteAt a = v := by
  simp only [Slot.byteAt, Slot.writeByte, Slot.withPixels, Slot.pixels, Option.getD_some, List.getD_eq_getElem?_getD,
    List.getElem?_modify_eq] at lt ⊢
  rw [List.getElem?_eq_getElem lt]
  simp

/-- A write to one byte leaves every other byte of the buffer as it was (R42). -/
theorem Slot.byteAt_writeByte_of_ne {sl : Slot} {a b : Nat} (ne : a ≠ b) (v : Byte) :
    (sl.writeByte a v).byteAt b = sl.byteAt b := by
  simp only [Slot.byteAt, Slot.writeByte, Slot.withPixels, Slot.pixels, Option.getD_some, List.getD_eq_getElem?_getD]
  by_cases e : a / 3 = b / 3
  · have hne : a % 3 ≠ b % 3 := by omega
    rw [e, List.getElem?_modify_eq]
    rcases h : (sl.buffer.getD [])[b / 3]? with _ | px
    · rfl
    · exact pixelComponent_setPixelComponent_of_ne v (Nat.mod_lt _ (by decide)) (Nat.mod_lt _ (by decide)) hne px
  · rw [List.getElem?_modify_ne (h := e)]

end Sys2Proof.Machine
end

