-- ==== Sys2Proof/Laws/Commands.lean ====
section
/-! SUPPORT. Everything each shared operation of the commands can do, said once: liveness, the buffer port's access,
CONFIGURE, a fill, an effect. -/

namespace Sys2Proof.Machine

/-! ### Handles and references -/

/-- A handle names no channel if and only if no slot it names is active (R76). -/
theorem State.channel?_eq_none {s : State} {h : Handle} :
    s.channel? h = none ↔ ∀ sl, s.slot? h = some sl → sl.active = false := by
  constructor
  · intro e sl hs
    by_contra hc
    rw [State.channel?_eq_some.2 ⟨hs, by simpa using hc⟩] at e
    cases e
  · intro a
    rcases e : s.channel? h with _ | sl
    · rfl
    · obtain ⟨hs, act⟩ := State.channel?_eq_some.1 e
      rw [a sl hs] at act
      cases act

theorem State.slot?_of_channel? {s : State} {h : Handle} {sl : Slot} (e : s.channel? h = some sl) : s.slot? h = some sl :=
  (State.channel?_eq_some.1 e).1

theorem State.active_of_channel? {s : State} {h : Handle} {sl : Slot} (e : s.channel? h = some sl) : sl.active = true :=
  (State.channel?_eq_some.1 e).2

theorem State.lt_of_channel? {s : State} {h : Handle} {sl : Slot} (e : s.channel? h = some sl) :
    h.toNat < Config.maxChannels :=
  State.lt_of_slot? (State.slot?_of_channel? e)

theorem State.valid_iff {s : State} {h : Handle} : s.valid h = true ↔ ∃ sl, s.channel? h = some sl := by
  simp [State.valid, Option.isSome_iff_exists]

/-- A reference is live if and only if its slot is active and has its generation (R81). -/
theorem State.live?_eq_some {s : State} {ref : BufRef} {sl : Slot} :
    s.live? ref = some sl ↔ s.slot? ref.handle = some sl ∧ sl.active = true ∧ sl.gen = ref.gen := by
  simp [State.live?, Option.filter_eq_some_iff, State.channel?_eq_some, and_assoc]

theorem State.live?_eq_none {s : State} {ref : BufRef} :
    s.live? ref = none ↔ ∀ sl, s.slot? ref.handle = some sl → sl.active = true → sl.gen ≠ ref.gen := by
  constructor
  · intro e sl hs act g
    rw [State.live?_eq_some.2 ⟨hs, act, g⟩] at e
    cases e
  · intro a
    rcases e : s.live? ref with _ | sl
    · rfl
    · obtain ⟨hs, act, g⟩ := State.live?_eq_some.1 e
      exact absurd g (a sl hs act)

/-- R61. -/
@[simp] theorem clamp8_toNat (x : Word) : (clamp8 x).toNat = min x.toNat 255 := by
  unfold clamp8
  split
  · simp
    omega
  · simp
    omega

/-! ### The buffer port -/

/-- What an access of the buffer port does (R82, R83, R140). -/
theorem State.access_cases (s : State) (ref : BufRef) (a : Word) (use : Slot → State) :
    (s.live? ref = none ∧ s.access ref a use = s.raiseFault (.staleBufferReference ref.handle ref.gen)) ∨
    ∃ sl, s.live? ref = some sl ∧
      ((sl.byteCount ≤ a.toNat ∧ s.access ref a use = s.raiseFault (.bufferOutOfBounds ref.handle a)) ∨
        (a.toNat < sl.byteCount ∧ s.access ref a use = use sl)) := by
  unfold State.access
  rcases s.live? ref with _ | sl
  · exact .inl ⟨rfl, rfl⟩
  · refine .inr ⟨sl, rfl, ?_⟩
    by_cases b : sl.byteCount ≤ a.toNat
    · exact .inl ⟨b, if_pos b⟩
    · exact .inr ⟨by omega, if_neg b⟩

/-! ### CONFIGURE -/

/-- What CONFIGURE does (R74): a rejection, a failed allocation or a success. -/
theorem State.configureWith_cases (resolved : Option Pin) (allocOk : Bool) (h : Handle) (pin : PinToken) (n : Half)
    (br : Byte) (s : State) :
    ((Config.maxChannels ≤ h.toNat ∨ n = 0 ∨ resolved = none) ∧
      s.configureWith resolved allocOk h pin n br = s.returns (.success false)) ∨
    ∃ sl p, s.slot? h = some sl ∧ n ≠ 0 ∧ resolved = some p ∧
      s.configureWith resolved allocOk h pin n br =
        if allocOk then
          (((State.setSlot h (sl.released.configured pin p n br) { s with draws := s.draws + 1 }).drive p .low).emit p .low
            .idle).returns (.success true)
        else (State.setSlot h sl.released { s with draws := s.draws + 1 }).returns (.success false) := by
  rcases hs : s.slot? h with _ | sl
  · exact .inl ⟨.inl ((s.slot?_eq_none_iff h).1 hs), by simp [State.configureWith, hs]⟩
  · by_cases hn : n = 0
    · exact .inl ⟨.inr (.inl hn), by simp only [State.configureWith, hs, if_pos hn]⟩
    · rcases resolved with _ | p
      · exact .inl ⟨.inr (.inr rfl), by simp only [State.configureWith, hs, if_neg hn]⟩
      · exact .inr ⟨sl, p, rfl, hn, rfl, by simp only [State.configureWith, hs, if_neg hn]⟩

/-! ### Fills -/

/-- A fill of an invalid handle is a no-op (R91). -/
theorem State.fillWith_of_none {s : State} {h : Handle} (e : s.channel? h = none) (sends : Bool) (c : Pixel) :
    s.fillWith sends h c = s.returns .nothing := by
  simp [State.fillWith, e]

/-- A fill of a valid handle writes the buffer and then sends, in the reading in which it does (R85). -/
theorem State.fillWith_of_channel {s : State} {h : Handle} {sl : Slot} (e : s.channel? h = some sl) (sends : Bool)
    (c : Pixel) : s.fillWith sends h c =
      (if sends then (s.setSlot h (sl.filled c)).sendAll else s.setSlot h (sl.filled c)).returns .nothing := by
  simp [State.fillWith, e]

/-! ### Effects -/

/-- What an effect does (R118): nothing on an invalid handle, nothing before it is due, else one frame. -/
theorem State.runEffect_cases (E : Effect) (h : Handle) (speed : Word) (frame : Slot → Int → Buffer)
    (advance : Nat → AnimRec → AnimRec) (s : State) :
    (s.channel? h = none ∧ s.runEffect E h speed frame advance = s.returns .nothing) ∨
    ∃ sl, s.channel? h = some sl ∧
      ((s.due h E speed = false ∧ s.runEffect E h speed frame advance = s.returns .nothing) ∨
        (s.due h E speed = true ∧
          s.runEffect E h speed frame advance = (s.animate E h frame advance sl).returns .nothing)) := by
  unfold State.runEffect
  rcases s.channel? h with _ | sl
  · exact .inl ⟨rfl, rfl⟩
  · refine .inr ⟨sl, rfl, ?_⟩
    rcases s.due h E speed with _ | _
    · exact .inl ⟨rfl, by simp⟩
    · exact .inr ⟨rfl, by simp⟩

theorem State.due_iff {s : State} {h : Handle} {E : Effect} {speed : Word} :
    s.due h E speed = true ↔ speed.toNat ≤ (s.tick - (s.animOf h E).last).toNat := by
  simp [State.due]

section Animate

variable {s : State} {h : Handle} {E : Effect} {frame : Slot → Int → Buffer} {advance : Nat → AnimRec → AnimRec} {sl : Slot}

/-- The state a frame sends from: the record stamped and the pixels written. -/
def State.framed (s : State) (h : Handle) (E : Effect) (frame : Slot → Int → Buffer) (sl : Slot) : State :=
  (s.setAnim h E { s.animOf h E with last := s.tick }).setSlot h (sl.withPixels (frame sl (s.animOf h E).cursor))

/-- A due frame is a SEND_ALL between the writing of the pixels and the advance (R118). -/
theorem State.animate_eq : s.animate E h frame advance sl =
    (s.framed h E frame sl).sendAll.setAnim h E (advance sl.pixelCount.toNat { s.animOf h E with last := s.tick }) := rfl

/-- The slots a due frame leaves: the channel's has the frame's pixels, and no other has changed. -/
theorem State.animate_slots :
    (s.animate E h frame advance sl).slots = (s.setSlot h (sl.withPixels (frame sl (s.animOf h E).cursor))).slots := by
  simp [State.animate_eq, State.framed]

/-- The record of the effect after a due frame. -/
theorem State.animate_animOf_self (lt : h.toNat < Config.maxChannels) : (s.animate E h frame advance sl).animOf h E =
    advance sl.pixelCount.toNat { s.animOf h E with last := s.tick } := by
  rw [State.animate_eq, State.animOf_setAnim_self lt]

/-- A due frame leaves every other record as it was (R132). -/
theorem State.animate_animOf_of_ne {k : Handle} {F : Effect} (ne : h ≠ k ∨ E ≠ F) :
    (s.animate E h frame advance sl).animOf k F = s.animOf k F := by
  rw [State.animate_eq, State.animOf_setAnim_of_ne ne, State.animOf_sendAll, State.framed, State.animOf_setSlot,
    State.animOf_setAnim_of_ne ne]

end Animate

end Sys2Proof.Machine
end

