-- ==== Sys2Proof/Laws/Decode.lean ====
section
/-! SUPPORT. The fields of a command word (R57) and the opcode map (R59), read both ways. -/

namespace Sys2Proof

@[simp] theorem commandWord_op (op : Opcode) (h : Handle) (ops : List Operand) :
    Command.op ⟨commandWord op h, ops⟩ = op.toByte := by
  simp only [Command.op, commandWord]
  ext i hi
  simp

@[simp] theorem commandWord_h (op : Opcode) (h : Handle) (ops : List Operand) :
    Command.h ⟨commandWord op h, ops⟩ = h := by
  simp only [Command.h, commandWord]
  ext i hi
  have : 8 + i < 16 := by omega
  simp [hi, this]

/-- Every command is found under its opcode. -/
@[simp] theorem Opcode.ofByte_toByte (op : Opcode) : Opcode.ofByte op.toByte = some op := by cases op <;> rfl

/-- A value of the map is its command's opcode, so no two commands share one. -/
theorem Opcode.eq_toByte_of_ofByte {b : Byte} {op : Opcode} (h : Opcode.ofByte b = some op) : b = op.toByte := by
  apply BitVec.eq_of_toNat_eq
  unfold Opcode.ofByte at h
  split at h <;> cases h <;> assumption

/-! ### An operand's type names its constructor -/

theorem Operand.kind_eq_u8 {o : Operand} : o.kind = .u8 ↔ ∃ v, o = .u8 v := by cases o <;> simp [Operand.kind]
theorem Operand.kind_eq_u16 {o : Operand} : o.kind = .u16 ↔ ∃ v, o = .u16 v := by cases o <;> simp [Operand.kind]
theorem Operand.kind_eq_u32 {o : Operand} : o.kind = .u32 ↔ ∃ v, o = .u32 v := by cases o <;> simp [Operand.kind]
theorem Operand.kind_eq_pin {o : Operand} : o.kind = .pin ↔ ∃ p, o = .pin p := by cases o <;> simp [Operand.kind]
theorem Operand.kind_eq_ref {o : Operand} : o.kind = .ref ↔ ∃ r, o = .ref r := by cases o <;> simp [Operand.kind]

/-! ### Each format's reader accepts exactly the operands of the format (R58) -/

theorem readNone_isSome (i : Instr) (ops : List Operand) : (readNone i ops).isSome = Format.n.accepts ops := by
  rw [Bool.eq_iff_iff, Format.accepts, decide_eq_true_iff]
  constructor
  · intro h
    unfold readNone at h
    split at h
    · rfl
    · cases h
  · intro h
    simp only [Format.kinds, List.map_eq_nil_iff] at h
    subst h
    rfl

theorem readCfg_isSome (f) (ops : List Operand) : (readCfg f ops).isSome = Format.cfg.accepts ops := by
  rw [Bool.eq_iff_iff, Format.accepts, decide_eq_true_iff]
  constructor
  · intro h
    unfold readCfg at h
    split at h
    · rfl
    · cases h
  · intro h
    simp only [Format.kinds, List.map_eq_cons_iff, List.map_eq_nil_iff, Operand.kind_eq_u8, Operand.kind_eq_u16, Operand.kind_eq_pin] at h
    obtain ⟨_, _, rfl, ⟨_, rfl⟩, _, _, rfl, ⟨_, rfl⟩, _, _, rfl, ⟨_, rfl⟩, rfl⟩ := h
    rfl

theorem readFill_isSome (f) (ops : List Operand) : (readFill f ops).isSome = Format.fill.accepts ops := by
  rw [Bool.eq_iff_iff, Format.accepts, decide_eq_true_iff]
  constructor
  · intro h
    unfold readFill at h
    split at h
    · rfl
    · cases h
  · intro h
    simp only [Format.kinds, List.map_eq_cons_iff, List.map_eq_nil_iff, Operand.kind_eq_u32] at h
    obtain ⟨_, _, rfl, ⟨_, rfl⟩, _, _, rfl, ⟨_, rfl⟩, _, _, rfl, ⟨_, rfl⟩, rfl⟩ := h
    rfl

theorem readBr_isSome (f) (ops : List Operand) : (readBr f ops).isSome = Format.br.accepts ops := by
  rw [Bool.eq_iff_iff, Format.accepts, decide_eq_true_iff]
  constructor
  · intro h
    unfold readBr at h
    split at h
    · rfl
    · cases h
  · intro h
    simp only [Format.kinds, List.map_eq_cons_iff, List.map_eq_nil_iff, Operand.kind_eq_u32, Operand.kind_eq_ref] at h
    obtain ⟨_, _, rfl, ⟨_, rfl⟩, _, _, rfl, ⟨_, rfl⟩, rfl⟩ := h
    rfl

theorem readBw_isSome (f) (ops : List Operand) : (readBw f ops).isSome = Format.bw.accepts ops := by
  rw [Bool.eq_iff_iff, Format.accepts, decide_eq_true_iff]
  constructor
  · intro h
    unfold readBw at h
    split at h
    · rfl
    · cases h
  · intro h
    simp only [Format.kinds, List.map_eq_cons_iff, List.map_eq_nil_iff, Operand.kind_eq_u8, Operand.kind_eq_u32, Operand.kind_eq_ref] at h
    obtain ⟨_, _, rfl, ⟨_, rfl⟩, _, _, rfl, ⟨_, rfl⟩, _, _, rfl, ⟨_, rfl⟩, rfl⟩ := h
    rfl

theorem readEs_isSome (f) (ops : List Operand) : (readEs f ops).isSome = Format.es.accepts ops := by
  rw [Bool.eq_iff_iff, Format.accepts, decide_eq_true_iff]
  constructor
  · intro h
    unfold readEs at h
    split at h
    · rfl
    · cases h
  · intro h
    simp only [Format.kinds, List.map_eq_cons_iff, List.map_eq_nil_iff, Operand.kind_eq_u32] at h
    obtain ⟨_, _, rfl, ⟨_, rfl⟩, rfl⟩ := h
    rfl

theorem readEws_isSome (f) (ops : List Operand) : (readEws f ops).isSome = Format.ews.accepts ops := by
  rw [Bool.eq_iff_iff, Format.accepts, decide_eq_true_iff]
  constructor
  · intro h
    unfold readEws at h
    split at h
    · rfl
    · cases h
  · intro h
    simp only [Format.kinds, List.map_eq_cons_iff, List.map_eq_nil_iff, Operand.kind_eq_u16, Operand.kind_eq_u32] at h
    obtain ⟨_, _, rfl, ⟨_, rfl⟩, _, _, rfl, ⟨_, rfl⟩, rfl⟩ := h
    rfl

theorem readErgbs_isSome (f) (ops : List Operand) : (readErgbs f ops).isSome = Format.ergbs.accepts ops := by
  rw [Bool.eq_iff_iff, Format.accepts, decide_eq_true_iff]
  constructor
  · intro h
    unfold readErgbs at h
    split at h
    · rfl
    · cases h
  · intro h
    simp only [Format.kinds, List.map_eq_cons_iff, List.map_eq_nil_iff, Operand.kind_eq_u8, Operand.kind_eq_u32] at h
    obtain ⟨_, _, rfl, ⟨_, rfl⟩, _, _, rfl, ⟨_, rfl⟩, _, _, rfl, ⟨_, rfl⟩, _, _, rfl, ⟨_, rfl⟩, rfl⟩ := h
    rfl

theorem readEbs_isSome (f) (ops : List Operand) : (readEbs f ops).isSome = Format.ebs.accepts ops := by
  rw [Bool.eq_iff_iff, Format.accepts, decide_eq_true_iff]
  constructor
  · intro h
    unfold readEbs at h
    split at h
    · rfl
    · cases h
  · intro h
    simp only [Format.kinds, List.map_eq_cons_iff, List.map_eq_nil_iff, Operand.kind_eq_u8, Operand.kind_eq_u32] at h
    obtain ⟨_, _, rfl, ⟨_, rfl⟩, _, _, rfl, ⟨_, rfl⟩, rfl⟩ := h
    rfl

/-- The operands of an assigned opcode are read if and only if they are those of its format (R58). -/
theorem decodeOperands_isSome (op : Opcode) (h : Handle) (ops : List Operand) :
    (decodeOperands op h ops).isSome = op.format.accepts ops := by
  cases op <;>
    simp only [decodeOperands, Opcode.format, readNone_isSome, readCfg_isSome, readFill_isSome,
      readBr_isSome, readBw_isSome, readEs_isSome, readEws_isSome, readErgbs_isSome, readEbs_isSome] <;>
    rfl

end Sys2Proof
end

