-- ==== Sys2Proof/Laws/PerInstr.lean ====
section
/-! SUPPORT. Statements for every command, one lemma per constructor of `Instr`. The family `Encode`: the encoding of
every command has the opcode the map gives it (R59) and the operands of the opcode's format (R58), so it is a
well-formed command whatever its operands' values (R60). -/

namespace Sys2Proof.Laws.Encode

/-- The opcode of a command (R59). -/
def opcodeOf : Instr → Opcode
  | .configure _ _ _ _ => .configure
  | .lookup _ => .lookup
  | .getLedCount _ => .getLedCount
  | .getBuffer _ => .getBuffer
  | .bufRead _ _ => .bufRead
  | .bufWrite _ _ _ => .bufWrite
  | .ledOff _ => .ledOff
  | .ledRed _ => .ledRed
  | .ledGreen _ => .ledGreen
  | .ledBlue _ => .ledBlue
  | .ledFill _ _ _ _ => .ledFill
  | .encodeAndSend _ => .encodeAndSend
  | .sendAll => .sendAll
  | .rainbow _ _ => .rainbow
  | .rainbowCycle _ _ => .rainbowCycle
  | .rainbows _ _ _ => .rainbows
  | .theaterChase _ _ _ _ _ => .theaterChase
  | .colorWipe _ _ _ _ _ => .colorWipe
  | .pulse _ _ _ _ _ => .pulse
  | .flash _ _ _ => .flash
  | .tick => .tick

/-- The encoding of a command has its opcode and is well formed. -/
def Statement (i : Instr) : Prop := (encode i).op = (opcodeOf i).toByte ∧ (encode i).wellFormed = true

/-- An encoding with the operands of its opcode's format is well formed. -/
theorem of_accepts {i : Instr} {op : Opcode} {h : Handle} {ops : List Operand} (e : encode i = ⟨commandWord op h, ops⟩)
    (o : opcodeOf i = op) (a : op.format.accepts ops = true) : Statement i := by
  rw [Statement, e, o, commandWord_op]
  exact ⟨rfl, by simp only [Command.wellFormed, commandWord_op, Opcode.ofByte_toByte, a]⟩

theorem configure (h : Handle) (pin : PinToken) (n : Half) (br : Byte) : Statement (.configure h pin n br) :=
  of_accepts rfl rfl rfl
theorem lookup (h : Handle) : Statement (.lookup h) := of_accepts rfl rfl rfl
theorem getLedCount (h : Handle) : Statement (.getLedCount h) := of_accepts rfl rfl rfl
theorem getBuffer (h : Handle) : Statement (.getBuffer h) := of_accepts rfl rfl rfl
theorem bufRead (ref : BufRef) (a : Word) : Statement (.bufRead ref a) := of_accepts rfl rfl rfl
theorem bufWrite (ref : BufRef) (a : Word) (v : Byte) : Statement (.bufWrite ref a v) := of_accepts rfl rfl rfl
theorem ledOff (h : Handle) : Statement (.ledOff h) := of_accepts rfl rfl rfl
theorem ledRed (h : Handle) : Statement (.ledRed h) := of_accepts rfl rfl rfl
theorem ledGreen (h : Handle) : Statement (.ledGreen h) := of_accepts rfl rfl rfl
theorem ledBlue (h : Handle) : Statement (.ledBlue h) := of_accepts rfl rfl rfl
theorem ledFill (h : Handle) (r g b : Word) : Statement (.ledFill h r g b) := of_accepts rfl rfl rfl
theorem encodeAndSend (h : Handle) : Statement (.encodeAndSend h) := of_accepts rfl rfl rfl
theorem sendAll : Statement .sendAll := of_accepts rfl rfl rfl
theorem rainbow (h : Handle) (speed : Word) : Statement (.rainbow h speed) := of_accepts rfl rfl rfl
theorem rainbowCycle (h : Handle) (speed : Word) : Statement (.rainbowCycle h speed) := of_accepts rfl rfl rfl
theorem rainbows (h : Handle) (width : Half) (speed : Word) : Statement (.rainbows h width speed) := of_accepts rfl rfl rfl
theorem theaterChase (h : Handle) (r g b : Byte) (speed : Word) : Statement (.theaterChase h r g b speed) :=
  of_accepts rfl rfl rfl
theorem colorWipe (h : Handle) (r g b : Byte) (speed : Word) : Statement (.colorWipe h r g b speed) :=
  of_accepts rfl rfl rfl
theorem pulse (h : Handle) (r g b : Byte) (speed : Word) : Statement (.pulse h r g b speed) := of_accepts rfl rfl rfl
theorem flash (h : Handle) (v : Byte) (speed : Word) : Statement (.flash h v speed) := of_accepts rfl rfl rfl
theorem tick : Statement .tick := of_accepts rfl rfl rfl

end Sys2Proof.Laws.Encode
end

