-- ==== Sys2Proof/Laws/Wire.lean ====
section
/-! SUPPORT. The wire format: what the engine emits is the frame of R70; what one handle's turn and a whole SEND_ALL do
to the logs, the levels and the draws (R104); the segments of a run of draws and their durations (R162). -/

namespace Sys2Proof.Machine

/-! ### The frame -/

/-- A symbol is two segments, a high one and a low one (R67). -/
theorem symbol_eq (b : Bool) : symbol b = [(.high, symbolClass b .high), (.low, symbolClass b .low)] := by cases b <;> rfl

/-- The engine emits the channel's frame (R70, R98). -/
theorem Slot.sent_eq_frame (sl : Slot) : sl.sent = sl.frame := by
  simp only [Slot.sent, Slot.frame, Slot.wireBytes, positions, List.map_append, List.map_flatMap, List.flatMap_assoc]
  congr 1
  refine List.flatMap_congr fun i _ => ?_
  simp only [wireOrder, bitOrder, List.flatMap_cons, List.flatMap_nil, symbols, symbol_eq]
  rfl

@[simp] theorem Slot.frame_length (sl : Slot) : sl.frame.length = 48 * sl.pixelCount.toNat + 1 := by
  rw [← sl.sent_eq_frame, sl.sent_length]

/-! ### A handle's turn in SEND_ALL -/

/-- How many segments a handle's turn emits (R100, R104). -/
def State.sendCost (s : State) (h : Handle) : Nat := ((s.channel? h).map fun sl => 48 * sl.pixelCount.toNat + 1).getD 0

theorem State.sendCost_congr {s t : State} (e : t.slots = s.slots) (h : Handle) : t.sendCost h = s.sendCost h := by
  simp [State.sendCost, State.channel?_congr e]

theorem State.frameOn_congr {s t : State} (e : t.slots = s.slots) (p : Pin) (k : Nat) (h : Handle) :
    t.frameOn p k h = s.frameOn p k h := by
  simp [State.frameOn, State.channel?_congr e]

/-- Each turn takes one draw a segment. -/
theorem State.sendHandle_draws (s : State) (h : Handle) : (s.sendHandle h).draws = s.draws + s.sendCost h := by
  unfold State.sendHandle State.sendCost
  rcases s.channel? h with _ | sl <;> simp [State.sendChannel_eq]

/-- A turn appends the channel's frame to its pin's log, and nothing to any other (R104). -/
theorem State.sendHandle_waveOf (s : State) (h : Handle) (p : Pin) :
    (s.sendHandle h).waveOf p = s.waveOf p ++ s.frameOn p s.draws h := by
  unfold State.sendHandle State.frameOn
  rcases s.channel? h with _ | sl
  · simp
  · by_cases hp : sl.portBit = p
    · simp [State.sendChannel_eq, State.waveOf, hp, Slot.sent_eq_frame]
    · simp [State.sendChannel_eq, State.waveOf, PinMap.get_set_of_ne hp, hp]

/-- A turn leaves the channel's pin low, and every other pin as it was (R103, R104). -/
theorem State.sendHandle_levelOf (s : State) (h : Handle) (p : Pin) :
    (s.sendHandle h).levelOf p = if (s.channel? h).map Slot.portBit = some p then some .low else s.levelOf p := by
  unfold State.sendHandle
  rcases s.channel? h with _ | sl
  · simp
  · by_cases hp : sl.portBit = p
    · simp [State.sendChannel_eq, State.levelOf, hp]
    · simp [State.sendChannel_eq, State.levelOf, PinMap.get_set_of_ne hp, hp]

theorem handles_eq : handles = [0, 1, 2, 3] := by decide

/-- A handle that names a slot is one of the four. -/
theorem mem_handles {h : Handle} : h ∈ handles ↔ h.toNat < Config.maxChannels := by
  revert h
  decide

/-- The levels and classes one SEND_ALL puts on a pin: the frames of the active channels on it, in ascending handle
order (R104). -/
def State.framesOn (s : State) (p : Pin) : List (Level × SegClass) :=
  ([0, 1, 2, 3] : List Handle).flatMap fun h => (s.frameOn p 0 h).map Segment.shape

theorem State.framesOn_congr {s t : State} (e : t.slots = s.slots) (p : Pin) : t.framesOn p = s.framesOn p := by
  simp only [State.framesOn, State.frameOn_congr e]

theorem State.inUse_congr {s t : State} (e : t.slots = s.slots) (p : Pin) : t.inUse p ↔ s.inUse p := by
  simp only [State.inUse, State.channel?_congr e]

/-- The levels and classes of the frames on a pin do not depend on the draws (R47). -/
theorem State.map_shape_framesOn (s : State) (p : Pin) (start : Handle → Nat) :
    (([0, 1, 2, 3] : List Handle).flatMap fun h => s.frameOn p (start h) h).map Segment.shape = s.framesOn p := by
  rw [State.framesOn, List.map_flatMap]
  refine List.flatMap_congr fun h _ => ?_
  unfold State.frameOn
  split
  · split <;> simp
  · rfl

/-! ### SEND_ALL -/

/-- SEND_ALL writes nothing but the pins, their logs, the engine and the draws (R104). -/
theorem State.sendAll_eq (s : State) : s.sendAll =
    { s with level := s.sendAll.level, wave := s.sendAll.wave, engine := .idle, draws := s.sendAll.draws } := by
  have h1 := s.sendAll_slots
  have h2 := s.sendAll_faulted
  have h3 := s.sendAll_refused
  have h4 := s.sendAll_tick
  have h5 := s.sendAll_anim
  have h6 := s.sendAll_pending
  have h7 := s.sendAll_result
  have h8 := s.sendAll_engine
  rcases hh : s.sendAll with ⟨a, b, c, d, e, f, g, i, j, k, l⟩
  simp only [hh] at *
  subst h1 h2 h3 h4 h5 h6 h7 h8
  rfl

/-- SEND_ALL appends every active channel's frame to its pin's log, in ascending handle order, each from the draw at
which the lower handles' frames have ended (R52, R104). -/
theorem State.waveOf_sendAll_eq (s : State) :
    ∃ start : Handle → Nat,
      (∀ h k sl, h.toNat < k.toNat → k.toNat < 4 → s.channel? h = some sl →
        start h + (48 * sl.pixelCount.toNat + 1) ≤ start k) ∧
      ∀ p, s.sendAll.waveOf p = s.waveOf p ++ ([0, 1, 2, 3] : List Handle).flatMap fun h => s.frameOn p (start h) h := by
  refine ⟨fun h => s.draws + match h.toNat with
    | 0 => 0
    | 1 => s.sendCost 0
    | 2 => s.sendCost 0 + s.sendCost 1
    | _ => s.sendCost 0 + s.sendCost 1 + s.sendCost 2, ?_, ?_⟩
  · intro h k sl lt l4 e
    have hc : s.sendCost h = 48 * sl.pixelCount.toNat + 1 := by simp [State.sendCost, e]
    have hh := mem_handles.2 (State.lt_of_slot? (State.channel?_eq_some.1 e).1)
    have hk := mem_handles.2 (show k.toNat < Config.maxChannels from l4)
    rw [handles_eq] at hh hk
    simp only [List.mem_cons, List.not_mem_nil, or_false] at hh hk
    rw [← hc]
    rcases hh with rfl | rfl | rfl | rfl <;> rcases hk with rfl | rfl | rfl | rfl <;> simp at lt ⊢ <;> omega
  · intro p
    show (handles.foldl State.sendHandle s).waveOf p = _
    have a1 := s.sendHandle_slots 0
    have a2 := ((s.sendHandle 0).sendHandle_slots 1).trans a1
    have a3 := (((s.sendHandle 0).sendHandle 1).sendHandle_slots 2).trans a2
    simp only [handles_eq, List.foldl_cons, List.foldl_nil, State.sendHandle_waveOf, State.sendHandle_draws,
      List.flatMap_cons, List.flatMap_nil, State.frameOn_congr a1, State.frameOn_congr a2, State.frameOn_congr a3,
      State.sendCost_congr a1, State.sendCost_congr a2]
    simp [Nat.add_assoc]

theorem State.inUse_iff (s : State) (p : Pin) :
    s.inUse p ↔ ∃ h ∈ handles, (s.channel? h).map Slot.portBit = some p := by
  constructor
  · rintro ⟨h, sl, e, rfl⟩
    exact ⟨h, mem_handles.2 (State.lt_of_slot? (State.channel?_eq_some.1 e).1), by simp [e]⟩
  · rintro ⟨h, -, e⟩
    obtain ⟨sl, hs, hp⟩ := Option.map_eq_some_iff.1 e
    exact ⟨h, sl, hs, hp⟩

theorem State.foldl_sendHandle_slots (hs : List Handle) (s : State) : (hs.foldl State.sendHandle s).slots = s.slots := by
  induction hs generalizing s with
  | nil => rfl
  | cons h hs ih => rw [List.foldl_cons, ih, State.sendHandle_slots]

theorem State.foldl_sendHandle_levelOf (s : State) (p : Pin) (hs : List Handle) : (hs.foldl State.sendHandle s).levelOf p =
    if ∃ h ∈ hs, (s.channel? h).map Slot.portBit = some p then some .low else s.levelOf p := by
  induction hs generalizing s with
  | nil => simp
  | cons h hs ih =>
    simp only [List.foldl_cons, ih, State.sendHandle_levelOf, State.channel?_congr (s.sendHandle_slots h), List.mem_cons,
      exists_eq_or_imp]
    by_cases d : ∃ k ∈ hs, (s.channel? k).map Slot.portBit = some p
    · rw [if_pos d, if_pos (.inr d)]
    · rw [if_neg d]
      exact if_congr (by simp only [d, or_false]) rfl rfl

/-- SEND_ALL leaves every pin of an active channel low, and every other pin as it was (R103, R104). -/
theorem State.levelOf_sendAll_of_inUse {s : State} {p : Pin} (u : s.inUse p) : s.sendAll.levelOf p = some .low := by
  rw [State.inUse_iff] at u
  exact (s.foldl_sendHandle_levelOf p handles).trans (if_pos u)

theorem State.levelOf_sendAll_of_not_inUse {s : State} {p : Pin} (u : ¬ s.inUse p) : s.sendAll.levelOf p = s.levelOf p := by
  rw [State.inUse_iff] at u
  exact (s.foldl_sendHandle_levelOf p handles).trans (if_neg u)

/-- What SEND_ALL leaves on the pins (R104). -/
theorem sentAll_sendAll (s : State) : sentAll s s.sendAll := by
  obtain ⟨start, order, h⟩ := s.waveOf_sendAll_eq
  refine ⟨⟨start, ?_, fun p => ?_⟩, fun p u => ?_, fun p u => ?_⟩
  · simpa only [State.channel?_sendAll] using order
  · simpa only [State.frameOn_congr s.sendAll_slots] using h p
  · exact State.levelOf_sendAll_of_inUse ((State.inUse_congr s.sendAll_slots p).1 u)
  · exact State.levelOf_sendAll_of_not_inUse fun w => u ((State.inUse_congr s.sendAll_slots p).2 w)

/-- What a command leaves on the pins is a matter of the pins, the logs and the slots alone. -/
theorem sentAll_congr {s t s' t' : State} (hl : s'.level = s.level) (hw : s'.wave = s.wave) (tl : t'.level = t.level)
    (tw : t'.wave = t.wave) (ts : t'.slots = t.slots) (h : sentAll s t) : sentAll s' t' := by
  simpa only [sentAll, State.levelOf, State.waveOf, State.frameOn_congr ts, State.channel?_congr ts, State.inUse_congr ts,
    hl, hw, tl, tw] using h

/-! ### The segments of a run of draws -/

theorem segmentsWith_append (T : Timing) (D : Draws) (k : Nat) (xs ys : List (Level × SegClass)) :
    segmentsWith T D k (xs ++ ys) = segmentsWith T D k xs ++ segmentsWith T D (k + xs.length) ys := by
  induction xs generalizing k with
  | nil => rfl
  | cons x xs ih =>
    simp only [List.cons_append, segmentsWith, ih, List.length_cons]
    rw [Nat.add_right_comm, Nat.add_assoc]

@[simp] theorem segmentsWith_map_shape (T : Timing) (D : Draws) (k : Nat) (xs : List (Level × SegClass)) :
    (segmentsWith T D k xs).map Segment.shape = xs := by
  induction xs generalizing k with
  | nil => rfl
  | cons x xs ih =>
    rw [segmentsWith, List.map_cons, ih]
    rfl

/-- A segment of a run is a draw's, of a level and class of the run. -/
theorem mem_segmentsWith {T : Timing} {D : Draws} {k : Nat} {xs : List (Level × SegClass)} {g : Segment}
    (h : g ∈ segmentsWith T D k xs) : ∃ i x, x ∈ xs ∧ k ≤ i ∧ i < k + xs.length ∧ g = segmentWith T D i x.1 x.2 := by
  induction xs generalizing k with
  | nil => cases h
  | cons x xs ih =>
    rcases List.mem_cons.1 h with rfl | h
    · exact ⟨k, x, List.mem_cons_self, le_rfl, by simp, rfl⟩
    · obtain ⟨i, y, hy, h1, h2, e⟩ := ih h
      exact ⟨i, y, List.mem_cons_of_mem _ hy, by omega, by simp only [List.length_cons]; omega, e⟩

/-! ### Durations -/

theorem le_within {lo hi x : Time} : lo ≤ within lo hi x := le_max_left _ _

theorem within_le {lo hi x : Time} (h : lo ≤ hi) : within lo hi x ≤ hi := max_le h (min_le_left _ _)

/-- The calibration draw stays within the tolerance of the nominal interval, and is not negative (R162). -/
theorem calibrated_bounds (T : Timing) (D : Draws) (k : Nat) (c : SegClass) (pos : 0 ≤ c.nominal T) :
    0 ≤ calibrated T D k c ∧ c.nominal T - T.tol ≤ calibrated T D k c ∧ calibrated T D k c ≤ c.nominal T + T.tol := by
  have t := T.tol_nonneg
  refine ⟨le_max_left _ _, le_trans le_within (le_max_right _ _), max_le (by linarith) (within_le (by linarith))⟩

/-- The overhead draw is not negative and at most the greatest gap (R162). -/
theorem overhead_bounds (T : Timing) (D : Draws) (k : Nat) (l : Level) (c : SegClass) :
    0 ≤ overhead T D k l c ∧ overhead T D k l c ≤ T.tGapMax := by
  have g := T.gap_nonneg
  cases l <;> cases c <;> simp only [overhead, le_refl, g, true_and] <;> exact ⟨le_within, within_le g⟩

theorem stallOf_nonneg (D : Draws) (k : Nat) : 0 ≤ stallOf D k := le_max_left _ _

theorem SegClass.nominal_nonneg (T : Timing) (c : SegClass) : 0 ≤ c.nominal T := by
  have := T.short_pos
  have := T.short_lt_long
  have := T.reset_pos
  have := T.latch_ge
  cases c <;> simp only [SegClass.nominal] <;> linarith

/-- A segment of a class other than `IDLE` is at least its nominal interval less the tolerance long (R162). -/
theorem le_durationWith (T : Timing) (D : Draws) (k : Nat) (l : Level) {c : SegClass} (ne : c ≠ .idle) :
    c.nominal T - T.tol ≤ durationWith T D k l c := by
  have a := (calibrated_bounds T D k c (c.nominal_nonneg T)).2.1
  have b := (overhead_bounds T D k l c).1
  have s := stallOf_nonneg D k
  cases c <;> first | exact absurd rfl ne | (simp only [durationWith]; linarith)

/-- No segment has a negative length. -/
theorem durationWith_nonneg (T : Timing) (D : Draws) (k : Nat) (l : Level) (c : SegClass) : 0 ≤ durationWith T D k l c := by
  have a := (calibrated_bounds T D k c (c.nominal_nonneg T)).1
  have b := (overhead_bounds T D k l c).1
  have s := stallOf_nonneg D k
  cases c <;> simp only [durationWith] <;> first | exact le_max_left _ _ | linarith

/-- A latch reaches the strip's threshold (R69). -/
theorem segmentWith_ok (T : Timing) (D : Draws) (k : Nat) {l : Level} {c : SegClass} (low : c = .latch → l = .low) :
    (segmentWith T D k l c).ok T := by
  refine ⟨durationWith_nonneg T D k l c, fun e => ⟨low e, ?_⟩⟩
  have e : c = .latch := e
  subst e
  exact T.latch_guard.trans (le_durationWith T D k l (by decide))

/-- A symbol has no latch in it (R67). -/
theorem mem_symbol {b : Bool} {x : Level × SegClass} (h : x ∈ symbol b) : x.2 = .short ∨ x.2 = .long := by
  cases b <;> simp only [symbol, if_true, if_false, Bool.false_eq_true, List.mem_cons, List.not_mem_nil, or_false] at h <;>
    rcases h with rfl | rfl <;> simp

/-- The symbols of a wire byte have no latch in them (R70). -/
theorem mem_symbols {w : Byte} {x : Level × SegClass} (h : x ∈ symbols w) : x.2 = .short ∨ x.2 = .long := by
  simp only [symbols, List.mem_append, or_assoc] at h
  rcases h with h | h | h | h | h | h | h | h <;> exact mem_symbol h

/-- Every segment of a frame the machine emits has the length its class needs (R69). -/
theorem segments_frame_ok (k : Nat) (sl : Slot) : ∀ g ∈ segments k sl.frame, g.ok Config.timing := by
  intro g hg
  obtain ⟨i, x, hx, -, -, rfl⟩ := mem_segmentsWith hg
  refine segmentWith_ok _ _ _ fun e => ?_
  rcases List.mem_append.1 hx with h | h
  · obtain ⟨w, -, h⟩ := List.mem_flatMap.1 h
    rcases mem_symbols h with h | h <;> cases h.symm.trans e
  · rw [List.mem_singleton.1 h]

end Sys2Proof.Machine
end

