-- ==== Sys2Proof/Laws/Step.lean ====
section
/-! SUPPORT. Everything a command can do, said once: the effects as one command, and the cases of `exec` and `step`. -/

namespace Sys2Proof.Machine

/-! ### The effects as one command -/

/-- The frame function of an effect (R124 to R131). -/
def Effect.frame (x : EffectArgs) : Effect → Slot → Int → Buffer
  | .rainbow => rainbowFrame Config.wheel.color
  | .rainbowCycle => fun sl c => spanFrame Config.wheel.color sl.pixelCount.toNat sl c
  | .rainbows => spanFrame Config.wheel.color x.width.toNat
  | .theaterChase => chaseFrame ⟨x.r, x.g, x.b⟩
  | .colorWipe => wipeFrame ⟨x.r, x.g, x.b⟩
  | .pulse => pulseFrame ⟨x.r, x.g, x.b⟩
  | .flash => flashFrame x.v

/-- The cursor advance of an effect (R124 to R131). -/
def Effect.advance : Effect → Nat → AnimRec → AnimRec
  | .rainbow => cycleCursor 256
  | .rainbowCycle => cycleCursor 256
  | .rainbows => cycleCursor 256
  | .theaterChase => cycleCursor 3
  | .colorWipe => wipeAdvance
  | .pulse => pulseAdvance
  | .flash => cycleCursor 3

/-- An advance leaves the timestamp alone (R118). -/
@[simp] theorem Effect.advance_last (E : Effect) (n : Nat) (a : AnimRec) : (E.advance n a).last = a.last := by
  cases E <;> rfl

/-- A frame has as many pixels as the strip (R118). -/
theorem Effect.frame_length (x : EffectArgs) (E : Effect) {sl : Slot} (len : sl.pixels.length = sl.pixelCount.toNat)
    (c : Int) : (E.frame x sl c).length = sl.pixelCount.toNat := by
  cases E <;> simp [Effect.frame, rainbowFrame, spanFrame, chaseFrame, wipeFrame, pulseFrame, flashFrame, len]

/-- An effect command with operands it runs on is the common contract over its frame and advance (R118). -/
theorem exec_effectInstr {x : EffectArgs} {E : Effect} (runs : effectRuns x E) (h : Handle) (speed : Word) (s : State) :
    exec (effectInstr h x speed E) s = .next (s.runEffect E h speed (E.frame x) E.advance) := by
  cases E
  case rainbows =>
    have : ¬ (s.valid h ∧ x.width = 0) := fun e => runs rfl e.2
    simp only [effectInstr, exec, execRainbows, if_neg this]
    rfl
  all_goals rfl

/-- Every effect command ends in the common contract, but for RAINBOWS of a valid handle with width zero (R126). -/
theorem exec_effectInstr_cases (h : Handle) (x : EffectArgs) (speed : Word) (E : Effect) (s : State) :
    (s.valid h ∧ exec (effectInstr h x speed E) s = .next (s.raiseFault .zeroWidth)) ∨
      exec (effectInstr h x speed E) s = .next (s.runEffect E h speed (E.frame x) E.advance) := by
  cases E
  case rainbows =>
    by_cases e : s.valid h ∧ x.width = 0
    · exact .inl ⟨e.1, by simp only [effectInstr, exec, execRainbows, if_pos e]⟩
    · refine .inr ?_
      simp only [effectInstr, exec, execRainbows, if_neg e]
      rfl
  all_goals exact .inr rfl

/-- A due frame of an effect on a valid handle (R118): the channel has the frame's pixels and every other slot is as it
was, the effect's record has advanced, and the tick is as it was. -/
theorem exec_effectInstr_of_due {x : EffectArgs} {E : Effect} (runs : effectRuns x E) {h : Handle} {speed : Word}
    {s : State} {sl : Slot} (hs : s.channel? h = some sl) (due : speed.toNat ≤ (s.tick - (s.animOf h E).last).toNat) :
    ∃ t, exec (effectInstr h x speed E) s = .next t ∧
      t.channel? h = some (sl.withPixels (E.frame x sl (s.animOf h E).cursor)) ∧
      t.slots = (s.setSlot h (sl.withPixels (E.frame x sl (s.animOf h E).cursor))).slots ∧
      t.animOf h E = E.advance sl.pixelCount.toNat { s.animOf h E with last := s.tick } ∧ t.tick = s.tick := by
  have lt := State.lt_of_channel? hs
  have act : sl.active = true := State.active_of_channel? hs
  refine ⟨(s.animate E h (E.frame x) E.advance sl).returns .nothing, ?_, ?_, ?_, ?_, ?_⟩
  · rw [exec_effectInstr runs]
    rcases s.runEffect_cases E h speed (E.frame x) E.advance with ⟨e, -⟩ | ⟨u, e, ⟨d, -⟩ | ⟨-, r⟩⟩
    · cases hs.symm.trans e
    · rw [State.due_iff.2 due] at d
      cases d
    · cases hs.symm.trans e
      rw [r]
  · rw [State.channel?_returns, State.channel?_congr State.animate_slots]
    exact State.channel?_setSlot_self lt act
  · rw [State.returns_slots, State.animate_slots]
  · rw [State.animOf_returns, State.animate_animOf_self lt]
  · rw [State.returns_tick, State.animate_eq, State.setAnim_tick, State.sendAll_tick]
    rfl

/-! ### The cases of a command -/

/-- What a command that ends in `t` has done to `s`. -/
inductive Did (s : State) (i : Instr) : State → Prop where
  /-- it returned a value, and did nothing else -/
  | returned (r : Result) (nofault : ∀ f, r ≠ .fault f) : Did s i (s.returns r)
  /-- it faulted (R139) -/
  | faulted (f : Fault) : Did s i (s.raiseFault f)
  /-- CONFIGURE, past its checks, with a failed allocation (R74) -/
  | released (h : Handle) (pin : PinToken) (n : Half) (br : Byte) (sl : Slot) (p : Pin) (hi : i = .configure h pin n br)
      (hs : s.slot? h = some sl) (hn : n ≠ 0) (hp : Config.resolve pin = some p) :
      Did s i ((State.setSlot h sl.released { s with draws := s.draws + 1 }).returns (.success false))
  /-- CONFIGURE, successful (R74) -/
  | configured (h : Handle) (pin : PinToken) (n : Half) (br : Byte) (sl : Slot) (p : Pin) (hi : i = .configure h pin n br)
      (hs : s.slot? h = some sl) (hn : n ≠ 0) (hp : Config.resolve pin = some p) :
      Did s i ((((State.setSlot h (sl.released.configured pin p n br) { s with draws := s.draws + 1 }).drive p .low).emit p
        .low .idle).returns (.success true))
  /-- BUF_WRITE of a byte that exists (R83) -/
  | wrote (ref : BufRef) (a : Word) (v : Byte) (sl : Slot) (hi : i = .bufWrite ref a v)
      (hs : s.channel? ref.handle = some sl) (ha : a.toNat < sl.byteCount) :
      Did s i ((s.setSlot ref.handle (sl.writeByte a.toNat v)).returns .nothing)
  /-- a fill of a channel (R85) -/
  | filled (h : Handle) (c : Pixel) (sl : Slot) (hi : isHostCommand i = false) (hj : isConfigure i = false)
      (hs : s.channel? h = some sl) : Did s i ((s.setSlot h (sl.filled c)).sendAll.returns .nothing)
  /-- ENCODE_AND_SEND of a channel (R102) -/
  | sent (h : Handle) (sl : Slot) (hi : i = .encodeAndSend h) (hs : s.channel? h = some sl) :
      Did s i ((s.sendChannel h sl).returns .nothing)
  /-- SEND_ALL (R104) -/
  | sentAll (hi : i = .sendAll) : Did s i (s.sendAll.returns .nothing)
  /-- a due frame of an effect (R118) -/
  | animated (h : Handle) (x : EffectArgs) (speed : Word) (E : Effect) (sl : Slot) (hi : i = effectInstr h x speed E)
      (hs : s.channel? h = some sl) : Did s i ((s.animate E h (E.frame x) E.advance sl).returns .nothing)
  /-- TICK (R116) -/
  | ticked (hi : i = .tick) : Did s i (State.returns .nothing { s with tick := s.tick + 1 })

theorem did_fill {s : State} {i : Instr} (h : Handle) (c : Pixel) (hi : isHostCommand i = false)
    (hj : isConfigure i = false) : Did s i (s.fill h c) := by
  unfold State.fill
  rcases e : s.channel? h with _ | sl
  · rw [State.fillWith_of_none e]
    exact .returned _ (by simp)
  · rw [State.fillWith_of_channel e, Config.fillSends, if_pos rfl]
    exact .filled h c sl hi hj e

theorem did_effect {s : State} (h : Handle) (x : EffectArgs) (speed : Word) (E : Effect) {t : State}
    (e : exec (effectInstr h x speed E) s = .next t) : Did s (effectInstr h x speed E) t := by
  rcases exec_effectInstr_cases h x speed E s with ⟨-, r⟩ | r
  · cases r.symm.trans e
    exact .faulted _
  · cases r.symm.trans e
    rcases s.runEffect_cases E h speed (E.frame x) E.advance with ⟨-, r⟩ | ⟨sl, hs, ⟨-, r⟩ | ⟨-, r⟩⟩ <;> rw [r]
    · exact .returned _ (by simp)
    · exact .returned _ (by simp)
    · exact .animated h x speed E sl rfl hs

/-- Everything a command can do. -/
theorem exec_did {i : Instr} {s t : State} (e : exec i s = .next t) : Did s i t := by
  cases i with
  | configure h pin n br =>
    cases e
    rcases s.configureWith_cases (Config.resolve pin) (Config.allocOk s.draws n) h pin n br with ⟨-, r⟩ | ⟨sl, p, hs, hn, hp, r⟩
    · rw [r]
      exact .returned _ (by simp)
    · rw [r]
      split
      · exact .configured h pin n br sl p rfl hs hn hp
      · exact .released h pin n br sl p rfl hs hn hp
  | lookup h =>
    cases e
    exact .returned _ (by simp)
  | getLedCount h =>
    simp only [exec, execGetLedCount] at e
    split at e <;> cases e <;> exact .returned _ (by simp)
  | getBuffer h =>
    simp only [exec, execGetBuffer] at e
    split at e <;> cases e <;> exact .returned _ (by simp)
  | bufRead ref a =>
    cases e
    rcases s.access_cases ref a fun sl => s.returns (.byte (sl.byteAt a.toNat)) with
      ⟨-, r⟩ | ⟨sl, -, ⟨-, r⟩ | ⟨-, r⟩⟩ <;> rw [r]
    · exact .faulted _
    · exact .faulted _
    · exact .returned _ (by simp)
  | bufWrite ref a v =>
    cases e
    rcases s.access_cases ref a fun sl => (s.setSlot ref.handle (sl.writeByte a.toNat v)).returns .nothing with
      ⟨-, r⟩ | ⟨sl, l, ⟨-, r⟩ | ⟨lt, r⟩⟩ <;> rw [r]
    · exact .faulted _
    · exact .faulted _
    · have := State.live?_eq_some.1 l
      exact .wrote ref a v sl rfl (State.channel?_eq_some.2 ⟨this.1, this.2.1⟩) lt
  | ledOff h =>
    cases e
    exact did_fill h _ rfl rfl
  | ledRed h =>
    cases e
    exact did_fill h _ rfl rfl
  | ledGreen h =>
    cases e
    exact did_fill h _ rfl rfl
  | ledBlue h =>
    cases e
    exact did_fill h _ rfl rfl
  | ledFill h r g b =>
    cases e
    exact did_fill h _ rfl rfl
  | encodeAndSend h =>
    cases e
    unfold State.sendHandle
    split
    · exact .sent h _ rfl ‹_›
    · exact .returned _ (by simp)
  | sendAll =>
    cases e
    exact .sentAll rfl
  | rainbow h speed => exact did_effect h ⟨0, 0, 0, 0, 0⟩ speed .rainbow e
  | rainbowCycle h speed => exact did_effect h ⟨0, 0, 0, 0, 0⟩ speed .rainbowCycle e
  | rainbows h width speed => exact did_effect h ⟨width, 0, 0, 0, 0⟩ speed .rainbows e
  | theaterChase h r g b speed => exact did_effect h ⟨0, r, g, b, 0⟩ speed .theaterChase e
  | colorWipe h r g b speed => exact did_effect h ⟨0, r, g, b, 0⟩ speed .colorWipe e
  | pulse h r g b speed => exact did_effect h ⟨0, r, g, b, 0⟩ speed .pulse e
  | flash h v speed => exact did_effect h ⟨0, 0, 0, 0, v⟩ speed .flash e
  | tick =>
    cases e
    exact .ticked rfl

/-- Everything a step that answers a next state can do: wait, run the oldest command to its end, or mark a command word
that names no command (R13, R71, R153). -/
theorem step_cases {s t : State} (e : step s = .next t) :
    (s.pending = [] ∧ t = s) ∨ ∃ c rest, s.pending = .command c :: rest ∧
      ((∃ i, decode c = .ok i ∧ exec i { s with pending := rest } = .next t) ∨
        ∃ op, decode c = .error (.unassignedOpcode op) ∧ t = State.refuseOpcode op { s with pending := rest }) := by
  rcases hp : s.pending with _ | ⟨c | c, rest⟩ <;> simp only [step, State.fetch?, hp] at e
  · cases e
    exact .inl ⟨rfl, rfl⟩
  · refine .inr ⟨c, rest, rfl, ?_⟩
    rcases hd : decode c with (op | op) | i <;> simp only [hd] at e
    · cases e
      exact .inr ⟨op, rfl, rfl⟩
    · cases e
    · exact .inl ⟨i, rfl, e⟩
  · cases e

end Sys2Proof.Machine
end

