-- ==== Sys2Proof/Tests/Slice0.lean ====
section
/-! SUPPORT. Tests: ill-formed commands refused, words of the spec decoded, the vectors of 95_test_vectors.md, and for
every obligation with hypotheses a state and operands that meet them. Expected results are the spec's, or are worked out
by hand from its rules. -/

namespace Sys2Proof.Tests

open Sys2Proof.Machine

/-! ### Well-formedness (R58, R59) -/

theorem test_wf_unassigned_opcode : Command.wellFormed ⟨0x0007, []⟩ = false := by decide
theorem test_wf_opcode_zero : Command.wellFormed ⟨0x0000, []⟩ = false := by decide
theorem test_wf_missing_operand : Command.wellFormed ⟨0x0014, [.u32 1, .u32 2]⟩ = false := by decide
theorem test_wf_left_over_operand : Command.wellFormed ⟨0x003F, [.u32 1]⟩ = false := by decide
theorem test_wf_wrong_type : Command.wellFormed ⟨0x0030, [.u16 1]⟩ = false := by decide
theorem test_wf_wrong_order : Command.wellFormed ⟨0x0001, [.u16 1, .pin ⟨7⟩, .u8 0]⟩ = false := by decide
theorem test_wf_reference_missing : Command.wellFormed ⟨0x0005, [.u32 0]⟩ = false := by decide
theorem test_wf_accepts : Command.wellFormed ⟨0x0036, [.u8 77, .u32 0]⟩ = true := by decide

theorem test_decode_unassigned : decode ⟨0x1222, []⟩ = .error (.unassignedOpcode 0x22) := rfl
theorem test_decode_malformed : decode ⟨0x0301, [.pin ⟨7⟩]⟩ = .error (.malformedOperands 0x01) := rfl

/-! ### Every command's word, from the opcode map (R57 to R59) -/

theorem test_decode_configure : decode ⟨0x0301, [.pin ⟨7⟩, .u16 0x0011, .u8 0x09]⟩ = .ok (.configure 3 ⟨7⟩ 17 9) := rfl
theorem test_decode_lookup : decode ⟨0xC802, []⟩ = .ok (.lookup 200) := rfl
theorem test_decode_get_led_count : decode ⟨0x0003, []⟩ = .ok (.getLedCount 0) := rfl
theorem test_decode_get_buffer : decode ⟨0x0104, []⟩ = .ok (.getBuffer 1) := rfl
theorem test_decode_buf_read : decode ⟨0xFF05, [.ref ⟨1, 1⟩, .u32 0x0000000B]⟩ = .ok (.bufRead ⟨1, 1⟩ 11) := rfl
theorem test_decode_buf_write : decode ⟨0x0006, [.ref ⟨2, 1⟩, .u32 0, .u8 0xC8]⟩ = .ok (.bufWrite ⟨2, 1⟩ 0 200) := rfl
theorem test_decode_led_off : decode ⟨0x0010, []⟩ = .ok (.ledOff 0) := rfl
theorem test_decode_led_red : decode ⟨0x0111, []⟩ = .ok (.ledRed 1) := rfl
theorem test_decode_led_green : decode ⟨0x0212, []⟩ = .ok (.ledGreen 2) := rfl
theorem test_decode_led_blue : decode ⟨0x0313, []⟩ = .ok (.ledBlue 3) := rfl
theorem test_decode_led_fill : decode ⟨0x0714, [.u32 1, .u32 2, .u32 3]⟩ = .ok (.ledFill 7 1 2 3) := rfl
theorem test_decode_encode_and_send : decode ⟨0x0220, []⟩ = .ok (.encodeAndSend 2) := rfl
theorem test_decode_send_all : decode ⟨0x0021, []⟩ = .ok .sendAll := rfl
theorem test_decode_rainbow : decode ⟨0x0130, [.u32 5]⟩ = .ok (.rainbow 1 5) := rfl
theorem test_decode_rainbow_cycle : decode ⟨0x0131, [.u32 5]⟩ = .ok (.rainbowCycle 1 5) := rfl
theorem test_decode_rainbows : decode ⟨0x0032, [.u16 0, .u32 0]⟩ = .ok (.rainbows 0 0 0) := rfl
theorem test_decode_theater_chase : decode ⟨0x0033, [.u8 10, .u8 20, .u8 30, .u32 0]⟩ = .ok (.theaterChase 0 10 20 30 0) := rfl
theorem test_decode_color_wipe : decode ⟨0x0034, [.u8 1, .u8 2, .u8 3, .u32 2]⟩ = .ok (.colorWipe 0 1 2 3 2) := rfl
theorem test_decode_pulse : decode ⟨0x0135, [.u8 9, .u8 8, .u8 7, .u32 0]⟩ = .ok (.pulse 1 9 8 7 0) := rfl
theorem test_decode_flash : decode ⟨0x0036, [.u8 77, .u32 0]⟩ = .ok (.flash 0 77 0) := rfl
theorem test_decode_tick : decode ⟨0xFF3F, []⟩ = .ok .tick := rfl

theorem test_encode_led_fill : encode (.ledFill 7 1 1 1) = ⟨0x0714, [.u32 1, .u32 1, .u32 1]⟩ := by decide

/-! ### Small states -/

/-- Pin tokens and pins of the vectors: PA1, PC4. -/
def pa1 : Pin := ⟨0, 1⟩
def pc4 : Pin := ⟨2, 4⟩

/-- An active slot on a pin, of generation 1. -/
def activeSlot (p : Pin) (n : Half) (br : Byte) (b : Buffer) : Slot := ⟨true, ⟨1⟩, p, n, br, some b, 1⟩

/-- Slot 0 active on PA1, slot 2 possibly active, the others inert; pins low, nothing sent yet. -/
def withSlots (s0 s2 : Slot) : State :=
  { State.reset with slots := #v[s0, Slot.inert, s2, Slot.inert], level := [(pa1, .low), (pc4, .low)] }

/-- One pixel, white, at full brightness (V37). -/
def one : Slot := activeSlot pa1 1 255 [⟨255, 255, 255⟩]

/-- Three black pixels at brightness 10 (V6). -/
def three : Slot := activeSlot pa1 3 10 [Pixel.black, Pixel.black, Pixel.black]

/-- Five black pixels (V50). -/
def five : Slot := activeSlot pa1 5 255 (List.replicate 5 Pixel.black)

/-- A one-pixel channel alone. -/
def st1 : State := withSlots one Slot.inert

/-- A three-pixel channel alone (after V6, but for its log). -/
def st3 : State := withSlots three Slot.inert

/-- A five-pixel channel alone. -/
def st5 : State := withSlots five Slot.inert

/-- What a state after a command shows, if there is one. -/
def after {α : Type} (i : Instr) (s : State) (f : State → α) : Option α := (nextOf (exec i s)).map f

/-- The pixels of channel 0. -/
def buf0 (s : State) : Buffer := ((s.channel? 0).map Slot.pixels).getD []

/-! ### Registry and buffer port (V1 to V18, for given answers of the resolver and the allocator) -/

theorem test_v6_configure :
    let t := State.configureWith (some pa1) true 0 ⟨1⟩ 3 10 State.reset
    t.slot? 0 = some three ∧ t.levelOf pa1 = some .low ∧ shapes (t.waveOf pa1) = [(.low, .idle)] ∧
      t.result = .success true := by decide
theorem test_v8_v9_reconfigure :
    (State.configureWith (some ⟨0, 2⟩) false 0 ⟨2⟩ 5 1 st3).slot? 0 =
      some { three with active := false, buffer := none, gen := 2 } ∧
    (State.configureWith (some ⟨0, 2⟩) true 0 ⟨2⟩ 5 1 st3).slot? 0 =
      some ⟨true, ⟨2⟩, ⟨0, 2⟩, 5, 1, some (List.replicate 5 Pixel.black), 3⟩ ∧
    (State.configureWith (some ⟨0, 2⟩) true 0 ⟨2⟩ 5 1 st3).levelOf pa1 = some .low := by decide

theorem test_v10_lookup : after (.lookup 0) st3 State.result = some (.channel (some 0)) := by decide
theorem test_v10_lookup_none : after (.lookup 200) st3 State.result = some (.channel none) := by decide
theorem test_v11_count : after (.getLedCount 0) st3 State.result = some (.count 3) := by decide
theorem test_v11_count_inert : after (.getLedCount 1) st3 State.result = some (.count 0) := by decide
theorem test_v12_buffer : after (.getBuffer 0) st3 State.result = some (.reference (some ⟨0, 1⟩)) := by decide
theorem test_v12_buffer_none : after (.getBuffer 3) st3 State.result = some (.reference none) := by decide
theorem test_v13_write_last_byte :
    after (.bufWrite ⟨0, 1⟩ 8 0xAA) st3 buf0 = some [⟨0, 0, 0⟩, ⟨0, 0, 0⟩, ⟨0, 0, 0xAA⟩] := by decide
theorem test_v13_read_last_byte :
    after (.bufRead ⟨0, 1⟩ 8) (st3.setSlot 0 (three.writeByte 8 0xAA)) State.result = some (.byte 0xAA) := by decide
theorem test_write_past_buffer :
    after (.bufWrite ⟨0, 1⟩ 9 1) st3 id = some { st3 with faulted := true, result := .fault (.bufferOutOfBounds 0 9) } := by
  decide
theorem test_v18_liveness_first :
    after (.bufRead ⟨0, 7⟩ 99) st3 State.result = some (.fault (.staleBufferReference 0 7)) := by decide

/-! ### Fills (V19 to V26) -/

theorem test_v19_off : after (.ledOff 0) st1 buf0 = some [⟨0, 0, 0⟩] := by decide
theorem test_v20_red : after (.ledRed 0) st1 buf0 = some [⟨255, 0, 0⟩] := by decide
theorem test_v21_green : after (.ledGreen 0) st1 buf0 = some [⟨0, 255, 0⟩] := by decide
theorem test_v22_blue : after (.ledBlue 0) st1 buf0 = some [⟨0, 0, 255⟩] := by decide
theorem test_v26_fill_clamps : after (.ledFill 0 300 127 0xFFFFFFFF) st1 buf0 = some [⟨255, 127, 255⟩] := by decide
theorem test_v23_clamp_edges : (clamp8 255, clamp8 256) = (255, 255) := by decide

/-! ### Encoder (V27 to V36) -/

/-- The wire bytes, green, red, blue, of a one-pixel channel. -/
def wireOf (px : Pixel) (br : Byte) : List Byte := (activeSlot pa1 1 br [px]).wireBytes

theorem test_v27 : wireOf ⟨255, 255, 255⟩ 255 = [0x9B, 0xFF, 0x9B] := by decide
theorem test_v28 : wireOf ⟨128, 64, 200⟩ 200 = [0x19, 0x64, 0x4E] := by decide
theorem test_v29 : wireOf ⟨1, 1, 1⟩ 255 = [0x00, 0x01, 0x00] := by decide
theorem test_v31 : wireOf ⟨255, 255, 255⟩ 100 = [0x00, 0x64, 0x00] := by decide
theorem test_v33 : wireOf ⟨254, 254, 254⟩ 101 = [0x00, 0x64, 0x00] := by decide
theorem test_v35 : wireOf ⟨0, 0, 255⟩ 50 = [0x00, 0x00, 0x00] := by decide
theorem test_v36 : wireOf ⟨77, 88, 99⟩ 255 = [0x35, 0x4D, 0x3C] := by decide

/-! ### Transmission (V37 to V41) -/

/-- A bit string in time order as its symbols (R67). -/
def symbolsOf (bits : List Nat) : List (Level × SegClass) :=
  bits.flatMap fun b => if b = 1 then [(.high, .long), (.low, .short)] else [(.high, .short), (.low, .long)]

theorem test_v37_frame :
    after (.encodeAndSend 0) st1 (fun t => shapes (t.waveOf pa1)) =
      some (symbolsOf [1, 0, 0, 1, 1, 0, 1, 1, 1, 1, 1, 1, 1, 1, 1, 1, 1, 0, 0, 1, 1, 0, 1, 1] ++ [(.low, .latch)]) := by
  decide
theorem test_v38_inert : after (.encodeAndSend 1) st1 id = some st1 := by decide
theorem test_v39_send_all_serialised :
    after .sendAll (withSlots one (activeSlot pc4 2 255 [⟨0, 0, 0⟩, ⟨0, 0, 0⟩])) (fun t =>
      ((t.waveOf pa1).map Segment.seq, (t.waveOf pc4).map Segment.seq)) =
      some (List.range' 0 49, List.range' 49 97) := by decide +kernel
theorem test_v40_send_all_inert : after .sendAll State.reset id = some State.reset := by decide

/-! ### The host agent (V44 to V60) -/

/-- A state with a tick and the record of one effect of handle 0. -/
def animated (s : State) (tick : Word) (E : Effect) (a : AnimRec) : State := { s.setAnim 0 E a with tick := tick }

/-- The record of an effect of handle 0. -/
def anim0 (E : Effect) (s : State) : AnimRec := s.animOf 0 E

theorem test_v44_tick_wraps : after .tick { State.reset with tick := 0xFFFFFFFF } State.tick = some 0 := by decide
theorem test_v45_not_due : (animated st1 3 .flash ⟨0, 0, .up⟩).due 0 .flash 4 = false := by decide
theorem test_v46_due : (animated st1 4 .flash ⟨0, 0, .up⟩).due 0 .flash 4 = true := by decide
theorem test_v47_due_over_wrap : (animated st1 1 .flash ⟨0xFFFFFFFE, 0, .up⟩).due 0 .flash 3 = true := by decide
theorem test_v50_chase :
    after (.theaterChase 0 10 20 30 0) (animated st5 0 .theaterChase ⟨0, 1, .up⟩) (fun t => (buf0 t, (anim0 .theaterChase t).cursor)) =
      some ([⟨0, 0, 0⟩, ⟨10, 20, 30⟩, ⟨0, 0, 0⟩, ⟨0, 0, 0⟩, ⟨10, 20, 30⟩], 2) := by decide +kernel
theorem test_v51_chase_frame :
    chaseFrame ⟨10, 20, 30⟩ five 2 = [⟨0, 0, 0⟩, ⟨0, 0, 0⟩, ⟨10, 20, 30⟩, ⟨0, 0, 0⟩, ⟨0, 0, 0⟩] := by decide
theorem test_v52_pulse :
    after (.pulse 0 200 100 0 0) (animated st1 0 .pulse ⟨0, 2, .up⟩) (fun t => (buf0 t, anim0 .pulse t)) =
      some ([⟨1, 0, 0⟩], ⟨0, 3, .up⟩) := by decide
theorem test_v53_v55_pulse_turns :
    (pulseAdvance 3 ⟨0, 254, .up⟩, pulseAdvance 3 ⟨0, 1, .down⟩) = (⟨0, 255, .down⟩, ⟨0, 0, .up⟩) := by decide
theorem test_v56_flash :
    after (.flash 0 77 0) (animated st1 0 .flash ⟨0, 2, .up⟩) (fun t => (buf0 t, (anim0 .flash t).cursor)) =
      some ([⟨0, 0, 77⟩], 0) := by decide
theorem test_v58_wipe_past_strip :
    (wipeFrame ⟨1, 2, 3⟩ three 7, wipeAdvance 3 ⟨0, 7, .up⟩) = ([⟨1, 2, 3⟩, ⟨0, 0, 0⟩, ⟨0, 0, 0⟩], ⟨0, 1, .up⟩) := by decide
theorem test_p4_wipe_due :
    after (.colorWipe 0 10 20 30 2) (animated st3 2 .colorWipe ⟨0, 0, .up⟩) (fun t => (buf0 t, anim0 .colorWipe t)) =
      some ([⟨10, 20, 30⟩, ⟨0, 0, 0⟩, ⟨0, 0, 0⟩], ⟨2, 1, .up⟩) := by decide +kernel
theorem test_v60_zero_width_inert : after (.rainbows 1 0 0) st1 id = some st1 := by decide

/-- The vectors of the candidate wheel (R123), which the machine's own wheel need not meet. -/
theorem test_candidate_wheel :
    [0, 84, 85, 128, 169, 170, 255].map Config.candidateWheel =
      [⟨0, 255, 0⟩, ⟨252, 3, 0⟩, ⟨255, 0, 0⟩, ⟨126, 0, 129⟩, ⟨3, 0, 252⟩, ⟨0, 0, 255⟩, ⟨0, 255, 0⟩] := by decide
theorem test_rainbow_frame :
    rainbowFrame Config.candidateWheel (activeSlot pa1 2 0 []) 0 = [⟨0, 255, 0⟩, ⟨3, 252, 0⟩] := by decide
theorem test_rainbow_cycle_frame :
    spanFrame Config.candidateWheel 3 three 0 = [⟨0, 255, 0⟩, ⟨255, 0, 0⟩, ⟨0, 0, 255⟩] := by decide
theorem test_rainbows_frame :
    spanFrame Config.candidateWheel 2 (activeSlot pa1 4 0 []) 0 =
      [⟨0, 255, 0⟩, ⟨126, 0, 129⟩, ⟨0, 255, 0⟩, ⟨126, 0, 129⟩] := by decide
theorem test_rainbow_advances :
    after (.rainbow 0 0) (animated st1 0 .rainbow ⟨0, 255, .up⟩) (fun t => (anim0 .rainbow t).cursor) = some 0 := by decide
theorem test_rainbow_cycle_advances :
    after (.rainbowCycle 0 0) (animated st1 0 .rainbowCycle ⟨0, 7, .up⟩) (fun t => (anim0 .rainbowCycle t).cursor) = some 8 := by
  decide

/-! ### The step -/

theorem test_step_unassigned :
    step { State.reset with pending := [.command ⟨0x0007, []⟩] } =
      .next { State.reset with refused := true, result := .refusal (.unassignedOpcode 7) } := rfl
theorem test_with_fetch_word_runs :
    (nextOf (step (State.reset.withFetchWord 16 0x003F))).map State.tick = some 1 := by decide
theorem test_decode_table_word : decodeTableWord 16 0x0534 = some (.colorWipe 5 0 0 0 0) := by decide

/-! ### Witnesses: a state and operands that meet each obligation's hypotheses, all together, and each of its clauses at
a value where its range ends -/

/-- The reset state with commands issued. -/
def issued (cs : List Command) : State := { State.reset with pending := cs.map .command }

theorem witness_StepRunsDecodedCommand :
    (issued [⟨0x003F, []⟩]).pending = .command ⟨0x003F, []⟩ :: [] ∧ decode ⟨0x003F, []⟩ = .ok .tick := ⟨rfl, rfl⟩
theorem witness_StepMarksUnassignedOpcode :
    (issued [⟨0x0007, []⟩]).pending = .command ⟨0x0007, []⟩ :: [] ∧
      Command.op ⟨0x0007, []⟩ ∉ ([0x01, 0x02, 0x03, 0x04, 0x05, 0x06, 0x10, 0x11, 0x12, 0x13, 0x14, 0x20, 0x21, 0x30, 0x31,
        0x32, 0x33, 0x34, 0x35, 0x36, 0x3F] : List Byte) := by decide
theorem witness_StepStopsOnMalformedOperands :
    (issued [⟨0x0014, []⟩]).pending = .command ⟨0x0014, []⟩ :: [] ∧ Opcode.ofByte (Command.op ⟨0x0014, []⟩) = some .ledFill ∧
      Command.wellFormed ⟨0x0014, []⟩ = false := by decide
theorem witness_StepSticksInEndlessStall : { State.reset with pending := [.stalled ⟨0xAB21, []⟩] }.pending =
    .stalled ⟨0xAB21, []⟩ :: [] := rfl
theorem witness_StepWaitsForCommand : State.reset.pending = [] := rfl
theorem witness_DecodedCommandEncodesBack_handle :
    decode ⟨0x0530, [.u32 7]⟩ = .ok (.rainbow 5 7) ∧ Opcode.ofByte (Command.op ⟨0x0530, [.u32 7]⟩) = some .rainbow ∧
      Opcode.rainbow.format ≠ .n ∧ Opcode.rainbow.format ≠ .br ∧ Opcode.rainbow.format ≠ .bw := by
  refine ⟨rfl, ?_⟩
  decide
theorem witness_DecodedCommandEncodesBack_no_handle :
    decode ⟨0xAB21, []⟩ = .ok .sendAll ∧ Opcode.ofByte (Command.op ⟨0xAB21, []⟩) = some .sendAll ∧
      Opcode.sendAll.format = .n := by
  refine ⟨rfl, ?_⟩
  decide

/-- ConfigureFollowsRule and ConfigurationLaw: the last handle and the least count pass, the next ones do not. -/
theorem witness_ConfigurationLaw :
    (3 : Handle).toNat < 4 ∧ (1 : Half) ≠ 0 ∧
      (State.configureWith (some pa1) true 3 ⟨1⟩ 1 0 State.reset).result = .success true ∧ 4 ≤ (4 : Handle).toNat ∧
      (State.configureWith (some pa1) true 4 ⟨1⟩ 1 0 State.reset).result = .success false := by decide
theorem witness_ReconfigurationMakesReferencesStale :
    st3.slot? 0 = some three ∧ (1 : Half) ≠ 0 ∧ (⟨0, 1⟩ : BufRef).handle = 0 ∧ (⟨0, 1⟩ : BufRef).gen ≤ three.gen := by decide
theorem witness_GetLedCount_GetBuffer_active : st3.slot? 0 = some three ∧ three.active = true := by decide
theorem witness_GetLedCount_GetBuffer_inert : st3.slot? 1 = some Slot.inert ∧ Slot.inert.active = false := by decide
theorem witness_GetLedCount_GetBuffer_absent : st3.slot? 4 = none := by decide
theorem witness_BufRead_BufWrite_stale :
    Memory.wf st3 = true ∧ st3.slot? 0 = some three ∧ three.active = true ∧ three.gen ≠ (⟨0, 0⟩ : BufRef).gen := by decide
theorem witness_BufRead_BufWrite_last_byte :
    Memory.wf st3 = true ∧ st3.slot? 0 = some three ∧ three.active = true ∧ three.gen = (⟨0, 1⟩ : BufRef).gen ∧
      ¬ 3 * three.pixelCount.toNat ≤ (8 : Word).toNat := by decide
theorem witness_BufRead_BufWrite_past_end :
    Memory.wf st3 = true ∧ st3.slot? 0 = some three ∧ three.active = true ∧ three.gen = (⟨0, 1⟩ : BufRef).gen ∧
      3 * three.pixelCount.toNat ≤ (9 : Word).toNat := by decide
theorem witness_BufferPortMovesNoPin :
    exec (.bufRead ⟨0, 1⟩ 8) st3 = .next (st3.returns (.byte 0)) ∧
      exec (.bufWrite ⟨0, 1⟩ 8 7) st3 = .next ((st3.setSlot 0 (three.writeByte 8 7)).returns .nothing) := ⟨rfl, rfl⟩

/-- The channel that the statements about fills, transmissions and effects ask for. -/
theorem witness_channel : st3.channel? 0 = some three ∧ Memory.wf st3 = true := by decide
theorem witness_InvalidHandleIsNoOp : st3.channel? 3 = none ∧ st3.channel? 4 = none ∧ 4 ≤ (4 : Handle).toNat := by decide
theorem witness_ScalingMeetsRule : (255 : Nat) ≤ 255 ∧ (0 : Nat) ≤ 255 ∧ (254 : Nat) ≤ 255 := by decide
theorem witness_WireBytesAreScaledComponents :
    0 < one.pixelCount.toNat ∧ one.pixels[0]? = some ⟨255, 255, 255⟩ := by decide
theorem witness_SendAllTwiceSamePayload :
    ∀ i ∈ [Instr.lookup 0, .encodeAndSend 2, .bufRead ⟨0, 1⟩ 0, .tick], writesSlots i = false := by decide
theorem witness_SendAllSendsActiveChannelsInOrder :
    let s := withSlots one (activeSlot pc4 1 255 [⟨0, 0, 0⟩])
    (0 : Handle).toNat < (2 : Handle).toNat ∧ (3 : Handle).toNat < 4 ∧ s.channel? 0 = some one ∧
      (s.channel? 2).map Slot.portBit = some pc4 ∧ s.channel? 1 = none := by decide

/-- Draws that add nothing to the nominal intervals. -/
def quiet : Draws := ⟨fun _ => 0, fun _ => 0, fun _ => 0, fun _ => 0⟩

theorem stallOf_quiet (k : Nat) : stallOf quiet k = 0 := max_self _

theorem witness_UnstalledFrameMeetsPremise :
    Config.referenceTiming.tol < (Config.referenceTiming.tLong - Config.referenceTiming.tShort) / 2 ∧
      Config.referenceTiming.tLong + Config.referenceTiming.tol + Config.referenceTiming.tGapMax <
        Config.referenceTiming.tResetMin ∧
      Config.referenceTiming.tResetMin ≤ Config.referenceTiming.tLatch - Config.referenceTiming.tol ∧
      ∀ i, 0 ≤ i → i < 0 + (48 * one.pixelCount.toNat + 1) → stallOf quiet i = 0 := by
  refine ⟨?_, ?_, ?_, fun i _ _ => stallOf_quiet i⟩ <;> norm_num [Config.referenceTiming]

theorem witness_SegmentDurationIsDraws :
    SegClass.short ≠ .idle ∧ (0 : Time) ≤ 400 ∧ SegClass.nominal Config.referenceTiming .short - Config.referenceTiming.tol ≤ 400 ∧
      400 ≤ SegClass.nominal Config.referenceTiming .short + Config.referenceTiming.tol ∧ (0 : Time) ≤ 0 ∧
      0 ≤ Config.referenceTiming.tGapMax ∧ (Level.low = .high ∨ SegClass.short = .latch → (0 : Time) = 0) ∧ (0 : Time) ≤ 5 := by
  refine ⟨by decide, by norm_num, ?_, ?_, le_refl _, ?_, fun _ => rfl, by norm_num⟩ <;>
    norm_num [SegClass.nominal, Config.referenceTiming]

theorem witness_RealSymbolPeriodIsBounded : stallOf quiet 0 = 0 ∧ stallOf quiet (0 + 1) = 0 :=
  ⟨stallOf_quiet 0, stallOf_quiet 1⟩

/-- The nominal segments of V37's frame meet the premise of ReceiverReadsWireBytes. -/
theorem witness_ReceiverReadsWireBytes :
    Memory.wf st1 = true ∧ st1.channel? 0 = some one ∧
      (segmentsWith Config.referenceTiming quiet 0 one.frame).map Segment.shape = one.frame ∧
      (∀ g ∈ segmentsWith Config.referenceTiming quiet 0 one.frame, 0 ≤ g.d) ∧
      TimingPremise Config.referenceTiming (stallOf quiet) (segmentsWith Config.referenceTiming quiet 0 one.frame) := by
  have shapes : ∀ x ∈ one.frame, x ∈ ([(.high, .short), (.high, .long), (.low, .short), (.low, .long), (.low, .latch)] :
      List (Level × SegClass)) := by decide
  have d : ∀ i, ∀ x ∈ one.frame, 0 ≤ (segmentWith Config.referenceTiming quiet i x.1 x.2).d ∧
      segmentInTime Config.referenceTiming (segmentWith Config.referenceTiming quiet i x.1 x.2) := by
    intro i x hx
    have := shapes x hx
    simp only [List.mem_cons, List.not_mem_nil, or_false] at this
    rcases this with rfl | rfl | rfl | rfl | rfl <;>
      norm_num [segmentInTime, segmentWith, durationWith, calibrated, overhead, within, SegClass.nominal, stallOf, quiet,
        Config.referenceTiming]
  refine ⟨by decide, by decide, segmentsWith_map_shape _ _ _ _, fun g hg => ?_, fun g hg => ?_⟩
  · obtain ⟨i, x, hx, -, -, rfl⟩ := mem_segmentsWith hg
    exact (d i x hx).1
  · obtain ⟨i, x, hx, -, -, rfl⟩ := mem_segmentsWith hg
    exact ⟨stallOf_quiet _, (d i x hx).2⟩

/-- The operands of the witnesses of the effects: a width of 1, the least that RAINBOWS runs on. -/
def args : EffectArgs := ⟨1, 10, 20, 30, 77⟩

theorem witness_NotDueEffectDoesNothing :
    effectRuns args .rainbows ∧ st3.channel? 0 = some three ∧
      (st3.tick - (st3.animOf 0 .rainbows).last).toNat < (1 : Word).toNat :=
  ⟨fun _ => by decide, by decide, by decide⟩
theorem witness_DueEffectFollowsContract :
    effectRuns args .rainbows ∧ st3.channel? 0 = some three ∧
      (4 : Word).toNat ≤ ((animated st3 4 .rainbows ⟨0, 0, .up⟩).tick -
        ((animated st3 4 .rainbows ⟨0, 0, .up⟩).animOf 0 .rainbows).last).toNat :=
  ⟨fun _ => by decide, by decide, by decide⟩
theorem witness_SecondCallTooSoonDoesNothing :
    effectRuns args .pulse ∧ (animated st3 4 .pulse ⟨0, 0, .up⟩).channel? 0 = some three ∧
      (4 : Word).toNat ≤ ((animated st3 4 .pulse ⟨0, 0, .up⟩).tick -
        ((animated st3 4 .pulse ⟨0, 0, .up⟩).animOf 0 .pulse).last).toNat ∧ 3 < (4 : Word).toNat :=
  ⟨fun e => (by cases e), by decide, by decide, by decide⟩

/-- The frames of RAINBOW, RAINBOW_CYCLE, RAINBOWS, THEATER_CHASE: a valid handle and, at speed 0, always due. -/
theorem witness_cycle_frames :
    st5.channel? 0 = some five ∧ (1 : Half) ≠ 0 ∧ (0 : Word).toNat ≤ (st5.tick - (st5.animOf 0 .rainbow).last).toNat ∧
      (0 : Word).toNat ≤ (st5.tick - (st5.animOf 0 .rainbowCycle).last).toNat ∧
      (0 : Word).toNat ≤ (st5.tick - (st5.animOf 0 .rainbows).last).toNat ∧
      (0 : Word).toNat ≤ (st5.tick - (st5.animOf 0 .theaterChase).last).toNat := by decide

/-- COLOR_WIPE with its cursor on the strip's last pixel, and past the strip. -/
theorem witness_ColorWipeFrame (c : Int) (hc : c = 2 ∨ c = 3) :
    let s := animated st3 0 .colorWipe ⟨0, c, .up⟩
    Memory.wf s = true ∧ s.channel? 0 = some three ∧ (0 : Word).toNat ≤ (s.tick - (s.animOf 0 .colorWipe).last).toNat ∧
      0 ≤ (s.animOf 0 .colorWipe).cursor ∧
      (if c = 2 then 2 else 0) = (if (three.pixelCount.toNat : Int) ≤ (s.animOf 0 .colorWipe).cursor then 0
        else (s.animOf 0 .colorWipe).cursor.toNat) := by
  rcases hc with rfl | rfl <;> decide

/-- PULSE at both ends of its cursor. -/
theorem witness_PulseFrame (c : Int) (hc : c = 0 ∨ c = 255) :
    let s := animated st3 0 .pulse ⟨0, c, .up⟩
    s.channel? 0 = some three ∧ (0 : Word).toNat ≤ (s.tick - (s.animOf 0 .pulse).last).toNat ∧
      0 ≤ (s.animOf 0 .pulse).cursor ∧ (s.animOf 0 .pulse).cursor ≤ 255 := by
  rcases hc with rfl | rfl <;> decide

/-- FLASH at each of its three cursors. -/
theorem witness_FlashFrame (c : Int) (hc : c = 0 ∨ c = 1 ∨ c = 2) :
    let s := animated st3 0 .flash ⟨0, c, .up⟩
    s.channel? 0 = some three ∧ (0 : Word).toNat ≤ (s.tick - (s.animOf 0 .flash).last).toNat ∧
      0 ≤ (s.animOf 0 .flash).cursor ∧ (s.animOf 0 .flash).cursor < 3 := by
  rcases hc with rfl | rfl | rfl <;> decide

theorem witness_ColorWipeLightsWholeStrip :
    Memory.wf st3 = true ∧ st3.channel? 0 = some three ∧ (st3.animOf 0 .colorWipe).cursor = 0 ∧
      3 ≤ three.pixelCount.toNat := by decide
theorem witness_PulsePingPongs :
    st3.channel? 0 = some three ∧ (st3.animOf 0 .pulse).cursor = 0 ∧ (st3.animOf 0 .pulse).dir = .up := by decide
theorem witness_EffectsAreIndependent :
    exec (effectInstr 1 args 0 .flash) st3 = .next (st3.returns .nothing) ∧ ((2 : Handle) ≠ 1 ∨ Effect.flash ≠ .flash) :=
  ⟨rfl, by decide⟩

/-- The slots of a state in which they are listed. -/
theorem slot_cases {s : State} {a b c d : Slot} {h : Handle} {sl : Slot}
    (e : State.slot? { s with slots := #v[a, b, c, d] } h = some sl) : sl = a ∨ sl = b ∨ sl = c ∨ sl = d := by
  have lt := State.lt_of_slot? e
  simp only [State.slot?] at e
  generalize h.toNat = i at e lt
  match i, lt with
  | 0, _ => exact .inl (Option.some.inj e).symm
  | 1, _ => exact .inr (.inl (Option.some.inj e).symm)
  | 2, _ => exact .inr (.inr (.inl (Option.some.inj e).symm))
  | 3, _ => exact .inr (.inr (.inr (Option.some.inj e).symm))

/-- The records of reset. -/
theorem reset_anim {s : State} (e : s.anim = State.reset.anim) (h : Handle) (E : Effect) : s.animOf h E = AnimRec.initial := by
  simp only [State.animOf, State.animBank, e, State.reset, Vector.getElem?_replicate]
  split <;> simp

/-- A low pin whose log has a latch of the least length: it meets the invariant, and the whole log is a gap of
LatchEndsEveryFrame. -/
theorem witness_LatchEndsEveryFrame :
    let g : Segment := ⟨.low, .latch, Config.timing.tResetMin, 0⟩
    let s : State := { State.reset with level := [(pa1, .low)], wave := [(pa1, [g])], draws := 1 }
    s.Inv ∧ s.waveOf pa1 = [] ++ [g] ++ [] ∧ (∀ x ∈ [g], x.level = .low) ∧ ∃ x ∈ [g], x.cls = .latch := by
  intro g s
  have inert : ∀ (h : Handle) sl, s.slot? h = some sl → sl = Slot.inert := by
    intro h sl e
    rcases slot_cases (s := s) (a := .inert) (b := .inert) (c := .inert) (d := .inert) e with e | e | e | e <;> exact e
  refine ⟨⟨?_, List.pairwise_singleton _ _, List.pairwise_singleton _ _, ?_, rfl, ?_, ?_, ?_⟩, rfl, by simp [g], by simp [g]⟩
  · intro h sl e
    cases inert h sl e
    exact ⟨rfl, fun a => by cases a⟩
  · intro p segs e
    simp only [s, PinMap.get] at e
    split at e <;> cases e
    refine ⟨by simp, List.pairwise_singleton _ _, fun x hx => ?_⟩
    cases List.mem_singleton.1 hx
    exact ⟨Nat.one_pos, Config.timing.reset_pos.le, fun _ => ⟨rfl, le_rfl⟩⟩
  · intro p l e
    simp only [s, State.levelOf, PinMap.get] at e
    split at e <;> cases e
    rfl
  · intro h sl e
    obtain ⟨e, a⟩ := State.channel?_eq_some.1 e
    cases inert h sl e
    cases a
  · intro h E
    have a : s.animOf h E = AnimRec.initial := reset_anim rfl h E
    rw [a]
    cases E <;> simp [Effect.cursorOk, AnimRec.initial]

/-- The invariant holds of a state with an active channel, whatever pin its token resolves to, so EveryStepKeepsInvariant
is not only about inert blocks. -/
theorem witness_EveryStepKeepsInvariant (p : Pin) (hp : Config.resolve ⟨1⟩ = some p) :
    let s : State := { issued [⟨0x003F, []⟩] with
      slots := #v[activeSlot p 1 0 [Pixel.black], Slot.inert, Slot.inert, Slot.inert], level := [(p, .low)] }
    s.Inv ∧ step s = .next (State.returns .nothing { s with tick := 1, pending := [] }) := by
  intro s
  refine ⟨⟨?_, by simp [s, PinMap.wf], List.Pairwise.nil, fun _ _ e => (by cases e), rfl, ?_, ?_, ?_⟩, rfl⟩
  · intro h sl e
    have m := slot_cases (s := issued [⟨0x003F, []⟩]) e
    rcases m with rfl | rfl | rfl | rfl
    · exact ⟨by simp [activeSlot, Slot.bufferOk], fun _ => hp⟩
    all_goals exact ⟨by decide, fun a => by cases a⟩
  · intro q l e
    simp only [s, State.levelOf, PinMap.get] at e
    split at e <;> cases e
    rfl
  · intro h sl e
    obtain ⟨hs, act⟩ := State.channel?_eq_some.1 e
    have m := slot_cases (s := issued [⟨0x003F, []⟩]) hs
    rcases m with rfl | rfl | rfl | rfl
    · simp [s, State.levelOf, PinMap.get, activeSlot]
    all_goals cases act
  · intro h E
    have a : s.animOf h E = AnimRec.initial := reset_anim rfl h E
    rw [a]
    cases E <;> simp [Effect.cursorOk, AnimRec.initial]

theorem witness_MarksAreSticky :
    step { issued [⟨0x003F, []⟩] with faulted := true, refused := true } =
      .next (State.returns .nothing { State.reset with faulted := true, refused := true, tick := 1 }) := rfl
theorem witness_FaultWritesNothingElse :
    exec (.bufRead ⟨0, 1⟩ 9) st3 = .next (st3.raiseFault (.bufferOutOfBounds 0 9)) ∧
      (st3.raiseFault (.bufferOutOfBounds 0 9)).result = .fault (.bufferOutOfBounds 0 9) := ⟨rfl, rfl⟩
theorem witness_OnlyConfigureWritesDescriptors :
    isConfigure (.lookup 0) = false ∧ exec (.lookup 0) st3 = .next (st3.returns (.channel (some 0))) ∧
      st3.slot? 0 = some three := ⟨rfl, rfl, rfl⟩
theorem witness_GenerationNeverDecreases :
    exec (.configure 0 ⟨1⟩ 0 0) st3 = .next (st3.returns (.success false)) ∧ st3.slot? 0 = some three := ⟨rfl, rfl⟩
theorem witness_BlockCommandsLeaveHostState :
    isHostCommand (.lookup 0) = false ∧ exec (.lookup 0) st3 = .next (st3.returns (.channel (some 0))) := ⟨rfl, rfl⟩

/-- Two different states that differ only where no command looks. -/
theorem witness_InertFieldsAreNotObservable :
    let t := State.reset.setSlot 1 { Slot.inert with pixelCount := 9, brightness := 8 }
    State.reset.maskInert = t.maskInert ∧ State.reset ≠ t ∧ step State.reset = .next State.reset := by
  refine ⟨?_, by decide, rfl⟩
  simp only [State.maskInert, State.setSlot, State.mk.injEq, and_true]
  apply Vector.ext
  intro i hi
  rw [Vector.getElem_map, Vector.getElem_map, Vector.getElem_setIfInBounds]
  simp only [State.reset, Vector.getElem_replicate]
  split_ifs <;> first | rfl | contradiction

end Sys2Proof.Tests
end

section
/-! PROOFS. The statements of 00_scope.md (R9, R13, R50): a step runs the command it takes, and every command ends with
a next state. -/

namespace Sys2Proof.Machine

/-! ### The step -/

/-- The block takes the oldest pending command and leaves the rest of the queue (R13; notes/assumptions/1.md). -/
theorem State.fetch?_of_pending {s : State} {c : Issued} {rest : List Issued} (hp : s.pending = c :: rest) :
    s.fetch? = some (c, { s with pending := rest }) := by
  simp only [State.fetch?, hp]

/-- The arm of `step` for a command that decodes (R50). -/
theorem step_of_decode_ok {s taken : State} {c : Command} {i : Instr} (hf : s.fetch? = some (.command c, taken))
    (hd : decode c = .ok i) : step s = exec i taken := by
  simp only [step, hf, hd]

/-- Settles O3: the queue gives the command to `step`, and `step` gives its decoding to `exec`. -/
theorem stepRunsDecodedCommand : Obligations.StepRunsDecodedCommand := by
  unfold Obligations.StepRunsDecodedCommand
  intro s c rest i hp hd
  exact step_of_decode_ok (State.fetch?_of_pending hp) hd

/-! ### Every command completes -/

/-- An effect command ends with a next state: the contract of R118, or the fault of a zero width (R126). -/
theorem exec_effectInstr_completes (h : Handle) (x : EffectArgs) (speed : Word) (E : Effect) (s : State) :
    ∃ t, exec (effectInstr h x speed E) s = .next t := by
  rcases exec_effectInstr_cases h x speed E s with ⟨-, e⟩ | e
  · exact ⟨_, e⟩
  · exact ⟨_, e⟩

/-- Settles O54, by cases on the command: only GET_LED_COUNT, GET_BUFFER and RAINBOWS branch on the state before they
answer, each to a next state on both branches; every other command's meaning is one next state. -/
theorem everyCommandCompletes : Obligations.EveryCommandCompletes := by
  unfold Obligations.EveryCommandCompletes
  intro i s
  cases i with
  | getLedCount h =>
    simp only [exec, execGetLedCount]
    split
    · exact ⟨_, rfl⟩
    · exact ⟨_, rfl⟩
  | getBuffer h =>
    simp only [exec, execGetBuffer]
    split
    · exact ⟨_, rfl⟩
    · exact ⟨_, rfl⟩
  | rainbows h width speed => exact exec_effectInstr_completes h ⟨width, 0, 0, 0, 0⟩ speed .rainbows s
  | _ => exact ⟨_, rfl⟩

end Sys2Proof.Machine
end

section
/-! PROOFS. The invariant of Safety.lean (R19, R29, R30, R34, R69, R115): it holds at reset, every operation a command is
made of keeps it, and so does every step. -/

namespace Sys2Proof.Machine

/-! ### Slots and logs -/

/-- A channel whose pixels are replaced by as many keeps the slot invariant (R19). -/
theorem Slot.ok.withPixels {sl : Slot} (ok : sl.ok) (act : sl.active = true) {b : Buffer}
    (len : b.length = sl.pixelCount.toNat) : (sl.withPixels b).ok :=
  ⟨Slot.bufferOk_withPixels act (Slot.bufferOk_active ok.1 act).1 len, ok.2⟩

/-- The release of CONFIGURE leaves an inert slot (R73, R74). -/
theorem Slot.released_active (sl : Slot) : sl.released.active = false := by
  unfold Slot.released
  split
  · rfl
  · simpa using ‹¬ sl.active = true›

theorem Slot.ok.released {sl : Slot} (ok : sl.ok) : sl.released.ok :=
  ⟨Slot.bufferOk_released ok.1, fun a => by simp [Slot.released_active] at a⟩

/-- A log stays in order where draws are taken that are not its own. -/
theorem logOk.mono {m n : Nat} (le : m ≤ n) {segs : List Segment} (ok : logOk m segs) : logOk n segs := by
  obtain ⟨ne, order, each⟩ := ok
  exact ⟨ne, order, fun g hg => ⟨(each g hg).1.trans_le le, (each g hg).2⟩⟩

/-- The segments of a run of draws are in the order of their draws (R34). -/
theorem segments_pairwise_seq (k : Nat) (xs : List (Level × SegClass)) :
    (segments k xs).Pairwise fun a b => a.seq < b.seq := by
  rw [← List.pairwise_map (f := Segment.seq) (R := (· < ·)), segments_seq]
  exact List.pairwise_lt_range'

/-- A log in order goes on in order with the segments of the next draws (R34). -/
theorem logOk_append_segments {n : Nat} {old : List Segment} {xs : List (Level × SegClass)} (ne : xs ≠ [])
    (hold : old = [] ∨ logOk n old) (hok : ∀ g ∈ segments n xs, g.ok Config.timing) :
    logOk (n + xs.length) (old ++ segments n xs) := by
  have new_ne : segments n xs ≠ [] := fun e => ne (by simpa [e] using (segments_map_shape n xs).symm)
  have new_each : ∀ g ∈ segments n xs, g.seq < n + xs.length ∧ g.ok Config.timing :=
    fun g hg => ⟨(mem_segments_seq hg).2, hok g hg⟩
  rcases hold with rfl | hold
  · exact ⟨new_ne, segments_pairwise_seq n xs, new_each⟩
  · obtain ⟨-, order, each⟩ := hold
    refine ⟨by simp [new_ne], List.pairwise_append.2 ⟨order, segments_pairwise_seq n xs, ?_⟩, ?_⟩
    · exact fun a ha b hb => (each a ha).1.trans_le (mem_segments_seq hb).1
    · intro g hg
      rcases List.mem_append.1 hg with h | h
      · exact ⟨(each g h).1.trans_le (Nat.le_add_right _ _), (each g h).2⟩
      · exact new_each g h

/-! ### Cursors -/

theorem AnimRec.initial_cursorOk (E : Effect) : E.cursorOk AnimRec.initial := by
  cases E <;> simp [Effect.cursorOk, AnimRec.initial]

/-- A cursor's range does not depend on the timestamp. -/
theorem Effect.cursorOk_last {E : Effect} {a : AnimRec} (last : Word) :
    E.cursorOk { a with last := last } ↔ E.cursorOk a := by
  cases E <;> rfl

/-- COLOR_WIPE's cursor stays on the strip (R128). -/
theorem wipeAdvance_cursor_bounds {n : Nat} (pos : 1 ≤ n) {a : AnimRec} (nonneg : 0 ≤ a.cursor) :
    0 ≤ (wipeAdvance n a).cursor ∧ (wipeAdvance n a).cursor < n := by
  simp only [wipeAdvance, wipeCursor]
  split_ifs <;> omega

/-- PULSE's cursor stays in 0 to 255 and turns at both ends (R130). -/
theorem pulseAdvance_cursorOk (n : Nat) {a : AnimRec} (ok : Effect.pulse.cursorOk a) :
    Effect.pulse.cursorOk (pulseAdvance n a) := by
  obtain ⟨nonneg, le, up, down⟩ := ok
  simp only [Effect.cursorOk, pulseAdvance]
  rcases hd : a.dir with _ | _
  · have : a.cursor ≠ 255 := fun e => by simp [down e] at hd
    simp only [Dir.step]
    refine ⟨by omega, by omega, fun e => by omega, fun e => by simp [e]⟩
  · have : a.cursor ≠ 0 := fun e => by simp [up e] at hd
    simp only [Dir.step]
    refine ⟨by omega, by omega, fun e => by simp [e], fun e => by omega⟩

/-- An effect's advance keeps its cursor in range, on a strip that CONFIGURE allows (R124 to R131). -/
theorem Effect.cursorOk_advance (E : Effect) {n : Nat} (pos : 1 ≤ n) (lt : n < 65536) {a : AnimRec} (ok : E.cursorOk a) :
    E.cursorOk (E.advance n a) := by
  cases E with
  | rainbow | rainbowCycle | rainbows | theaterChase | flash =>
    exact ⟨Int.emod_nonneg _ (by decide), Int.emod_lt_of_pos _ (by decide)⟩
  | colorWipe =>
    obtain ⟨h0, hn⟩ := wipeAdvance_cursor_bounds pos ok.1
    exact ⟨h0, hn.trans_le (by omega)⟩
  | pulse => exact pulseAdvance_cursorOk n ok

/-! ### A transmission on one pin -/

/-- What every emission of the block amounts to between commands: the pin is left low, its log goes on with the segments
of the next draws, and the engine is idle (R34, R98). -/
def State.transmit (p : Pin) (shapes : List (Level × SegClass)) (s : State) : State :=
  { s with
    engine := .idle
    level := s.level.set p .low
    wave := s.wave.set p (s.waveOf p ++ segments s.draws shapes)
    draws := s.draws + shapes.length }

/-- SendChannel transmits the channel's frame (R70, R98). -/
theorem State.sendChannel_eq_transmit (h : Handle) (sl : Slot) (s : State) :
    s.sendChannel h sl = s.transmit sl.portBit sl.frame := by
  rw [State.sendChannel_eq, State.transmit, Slot.frame_length, Slot.sent_eq_frame]

/-- CONFIGURE transmits the `IDLE` segment of its pin (R74). -/
theorem State.emit_idle_eq_transmit {s : State} (idle : s.engine = .idle) (p : Pin) :
    (s.drive p .low).emit p .low .idle = s.transmit p [(.low, .idle)] := by
  rw [State.transmit, ← idle]
  rfl

/-- The `IDLE` segment has the length its class needs: any that is not negative (R34). -/
theorem segments_idle_ok (k : Nat) : ∀ g ∈ segments k [(.low, .idle)], g.ok Config.timing := by
  intro g hg
  obtain ⟨i, x, hx, -, -, rfl⟩ := mem_segmentsWith hg
  exact segmentWith_ok _ _ _ fun _ => by rw [List.mem_singleton.1 hx]

/-! ### What keeps the invariant -/

namespace State.Inv

/-- The invariant is a matter of the slots, the pins, the logs, the engine and the records; draws may have been taken. -/
theorem congr {s t : State} (w : s.Inv) (slots : t.slots = s.slots) (level : t.level = s.level) (wave : t.wave = s.wave)
    (engine : t.engine = .idle) (anim : t.anim = s.anim) (draws : s.draws ≤ t.draws) : t.Inv where
  slots_ok h sl e := w.slots_ok h sl (by rwa [State.slot?, slots] at e)
  level_wf := level ▸ w.level_wf
  wave_wf := wave ▸ w.wave_wf
  logs_ok p segs e := (w.logs_ok p segs (wave ▸ e)).mono draws
  idle := engine
  lines_low p l e := w.lines_low p l (by rwa [State.levelOf, level] at e)
  driven h sl e := by
    rw [State.levelOf, level]
    exact w.driven h sl (State.channel?_congr slots h ▸ e)
  cursors_ok h E := by
    rw [State.animOf, State.animBank, anim]
    exact w.cursors_ok h E

theorem returns {s : State} (w : s.Inv) (r : Result) : (s.returns r).Inv := w.congr rfl rfl rfl w.idle rfl le_rfl

theorem raiseFault {s : State} (w : s.Inv) (f : Fault) : (s.raiseFault f).Inv := w.congr rfl rfl rfl w.idle rfl le_rfl

theorem refuseOpcode {s : State} (w : s.Inv) (op : Byte) : (s.refuseOpcode op).Inv :=
  w.congr rfl rfl rfl w.idle rfl le_rfl

/-- A slot that meets the slot invariant may be written, where its pin is driven if it is active. -/
theorem setSlot {s : State} (w : s.Inv) (h : Handle) {sl : Slot} (ok : sl.ok)
    (low : sl.active = true → s.levelOf sl.portBit = some .low) : (s.setSlot h sl).Inv where
  slots_ok k u e := by
    by_cases ne : h = k
    · subst ne
      rw [State.slot?_setSlot_self (State.lt_of_slot? e)] at e
      exact Option.some.inj e ▸ ok
    · exact w.slots_ok k u (State.slot?_setSlot_of_ne ne sl ▸ e)
  level_wf := w.level_wf
  wave_wf := w.wave_wf
  logs_ok := w.logs_ok
  idle := w.idle
  lines_low := w.lines_low
  driven k u e := by
    by_cases ne : h = k
    · subst ne
      obtain ⟨hs, act⟩ := State.channel?_eq_some.1 e
      rw [State.slot?_setSlot_self (State.lt_of_slot? hs)] at hs
      cases hs
      exact low act
    · exact w.driven k u (State.channel?_setSlot_of_ne ne sl ▸ e)
  cursors_ok := w.cursors_ok

/-- The pixels of a channel may be replaced by as many (R19, R75). -/
theorem setPixels {s : State} (w : s.Inv) {h : Handle} {sl : Slot} (hs : s.channel? h = some sl) {b : Buffer}
    (len : b.length = sl.pixelCount.toNat) : (s.setSlot h (sl.withPixels b)).Inv :=
  w.setSlot h ((w.slots_ok h sl (State.slot?_of_channel? hs)).withPixels (State.active_of_channel? hs) len)
    fun _ => w.driven h sl hs

/-- A record whose cursor is in range may be written (R115). -/
theorem setAnim {s : State} (w : s.Inv) (h : Handle) {E : Effect} {a : AnimRec} (ok : E.cursorOk a) :
    (s.setAnim h E a).Inv where
  slots_ok := w.slots_ok
  level_wf := w.level_wf
  wave_wf := w.wave_wf
  logs_ok := w.logs_ok
  idle := w.idle
  lines_low := w.lines_low
  driven := w.driven
  cursors_ok k F := by
    by_cases same : h = k ∧ E = F
    · obtain ⟨rfl, rfl⟩ := same
      by_cases lt : h.toNat < Config.maxChannels
      · rwa [State.animOf_setAnim_self lt]
      · have out : (s.setAnim h E a).animOf h E = s.animOf h E := by
          simp [State.animOf, State.animBank, State.setAnim, lt]
        exact out ▸ w.cursors_ok h E
    · rw [State.animOf_setAnim_of_ne (by tauto)]
      exact w.cursors_ok k F

/-- The log a pin has, or the empty one of a pin that no segment has been emitted on. -/
theorem waveOf_ok {s : State} (w : s.Inv) (p : Pin) : s.waveOf p = [] ∨ logOk s.draws (s.waveOf p) := by
  unfold State.waveOf
  rcases e : s.wave.get p with _ | segs
  · exact .inl rfl
  · exact .inr (w.logs_ok p segs e)

/-- A transmission of segments of the lengths their classes need keeps the invariant (R30, R34, R69). -/
theorem transmit {s : State} (w : s.Inv) (p : Pin) {shapes : List (Level × SegClass)} (ne : shapes ≠ [])
    (ok : ∀ g ∈ segments s.draws shapes, g.ok Config.timing) : (s.transmit p shapes).Inv where
  slots_ok := w.slots_ok
  level_wf := PinMap.wf_set p Level.low w.level_wf
  wave_wf := PinMap.wf_set p _ w.wave_wf
  logs_ok q segs e := by
    by_cases hq : p = q
    · subst hq
      simp only [State.transmit, PinMap.get_set_self, Option.some.injEq] at e
      exact e ▸ logOk_append_segments ne (w.waveOf_ok p) ok
    · simp only [State.transmit, PinMap.get_set_of_ne hq] at e
      exact (w.logs_ok q segs e).mono (Nat.le_add_right _ _)
  idle := rfl
  lines_low q l e := by
    simp only [State.transmit, State.levelOf, PinMap.get_set] at e
    split at e
    · exact (Option.some.inj e).symm
    · exact w.lines_low q l e
  driven h sl e := by
    simp only [State.transmit, State.levelOf, PinMap.get_set]
    split
    · rfl
    · exact w.driven h sl e
  cursors_ok := w.cursors_ok

theorem sendChannel {s : State} (w : s.Inv) (h : Handle) (sl : Slot) : (s.sendChannel h sl).Inv := by
  rw [State.sendChannel_eq_transmit]
  exact w.transmit _ (by simp [Slot.frame]) (segments_frame_ok _ sl)

theorem sendHandle {s : State} (w : s.Inv) (h : Handle) : (s.sendHandle h).Inv := by
  unfold State.sendHandle
  split
  · exact w.sendChannel _ _
  · exact w

theorem foldl_sendHandle {s : State} (w : s.Inv) (hs : List Handle) : (hs.foldl State.sendHandle s).Inv := by
  induction hs generalizing s with
  | nil => exact w
  | cons h hs ih => exact ih (w.sendHandle h)

theorem sendAll {s : State} (w : s.Inv) : s.sendAll.Inv :=
  (w.foldl_sendHandle handles).congr rfl rfl rfl rfl rfl le_rfl

/-- A due frame keeps the invariant (R118): it has as many pixels as the strip, and the cursor stays in range. -/
theorem animate {s : State} (w : s.Inv) {h : Handle} {sl : Slot} (hs : s.channel? h = some sl) (x : EffectArgs)
    (E : Effect) : (s.animate E h (E.frame x) E.advance sl).Inv := by
  obtain ⟨pos, len⟩ :=
    Slot.bufferOk_active (w.slots_ok h sl (State.slot?_of_channel? hs)).1 (State.active_of_channel? hs)
  have stamped : E.cursorOk { s.animOf h E with last := s.tick } := (Effect.cursorOk_last _).2 (w.cursors_ok h E)
  have framed : (s.framed h E (E.frame x) sl).Inv := (w.setAnim h stamped).setPixels hs (E.frame_length x len _)
  rw [State.animate_eq]
  exact framed.sendAll.setAnim h (E.cursorOk_advance pos sl.pixelCount.isLt stamped)

/-- A successful CONFIGURE keeps the invariant (R74): its slot is fully configured and its pin is driven low. -/
theorem configured {s : State} (w : s.Inv) (h : Handle) {pin : PinToken} {p : Pin} (hp : Config.resolve pin = some p)
    {n : Half} (hn : n ≠ 0) (br : Byte) (sl : Slot) :
    (((s.setSlot h (sl.configured pin p n br)).drive p .low).emit p .low .idle).Inv := by
  have low : ((s.drive p .low).emit p .low .idle).Inv := by
    rw [State.emit_idle_eq_transmit w.idle]
    exact w.transmit p (by simp) (segments_idle_ok _)
  exact low.setSlot h (sl := sl.configured pin p n br) ⟨Slot.bufferOk_configured pin p hn br sl, fun _ => hp⟩
    fun _ => State.levelOf_drive_self p .low s

/-- Every command keeps the invariant. -/
theorem did {i : Instr} {s t : State} (w : s.Inv) (d : Did s i t) : t.Inv := by
  have asked : State.Inv { s with draws := s.draws + 1 } := w.congr rfl rfl rfl w.idle rfl (Nat.le_succ _)
  cases d with
  | returned r _ => exact w.returns r
  | faulted f => exact w.raiseFault f
  | released h _ _ _ sl _ _ hs _ _ =>
    refine (asked.setSlot h (w.slots_ok h sl hs).released fun act => ?_).returns _
    simp [Slot.released_active] at act
  | configured h _ _ br sl _ _ _ hn hp => exact (asked.configured h hp hn br sl.released).returns _
  | wrote ref a v sl _ hs _ =>
    have len := (Slot.bufferOk_active (w.slots_ok _ sl (State.slot?_of_channel? hs)).1 (State.active_of_channel? hs)).2
    exact (w.setPixels hs (by rw [List.length_modify, len])).returns _
  | filled h c sl _ _ hs => exact (w.setPixels hs List.length_replicate).sendAll.returns _
  | sent h sl _ _ => exact (w.sendChannel h sl).returns _
  | sentAll _ => exact w.sendAll.returns _
  | animated h x _ E sl _ hs => exact (w.animate hs x E).returns _
  | ticked _ => exact w.congr rfl rfl rfl w.idle rfl le_rfl

end State.Inv

/-- Settles O53: a step waits, marks an unassigned opcode, or runs a command, and each keeps the invariant. -/
theorem everyStepKeepsInvariant : Obligations.EveryStepKeepsInvariant := by
  unfold Obligations.EveryStepKeepsInvariant
  intro s t w e
  rcases step_cases e with ⟨-, rfl⟩ | ⟨c, rest, -, run⟩
  · exact w
  · have taken : State.Inv { s with pending := rest } := w.congr rfl rfl rfl w.idle rfl le_rfl
    rcases run with ⟨i, -, e⟩ | ⟨op, -, rfl⟩
    · exact taken.did (exec_did e)
    · exact taken.refuseOpcode op

/-! ### Reset -/

theorem State.eq_inert_of_slot?_reset {h : Handle} {sl : Slot} (e : State.reset.slot? h = some sl) : sl = Slot.inert := by
  simp only [State.slot?, State.reset, Vector.getElem?_replicate] at e
  split at e
  · exact (Option.some.inj e).symm
  · cases e

theorem State.animOf_reset (h : Handle) (E : Effect) : State.reset.animOf h E = AnimRec.initial := by
  simp only [State.animOf, State.animBank, State.reset, Vector.getElem?_replicate]
  split <;> simp

theorem State.channel?_reset (h : Handle) : State.reset.channel? h = none :=
  State.channel?_eq_none.2 fun _ e => State.eq_inert_of_slot?_reset e ▸ rfl

/-- Settles O2: at reset every slot is inert, no pin is driven or logged, and every record is the initial one. -/
theorem invariantHoldsAtReset : Obligations.InvariantHoldsAtReset where
  slots_ok _ _ e := State.eq_inert_of_slot?_reset e ▸ ⟨rfl, fun a => by cases a⟩
  level_wf := List.Pairwise.nil
  wave_wf := List.Pairwise.nil
  logs_ok _ _ e := by cases e
  idle := rfl
  lines_low _ _ e := by cases e
  driven h _ e := by cases (State.channel?_reset h).symm.trans e
  cursors_ok h E := by
    rw [State.animOf_reset]
    exact AnimRec.initial_cursorOk E

end Sys2Proof.Machine
end

section
/-! PROOFS. What no command observes (R20): putting the unobservable fields of the inert slots to one value commutes with
every read and every operation of a command, so it commutes with a step. -/

namespace Sys2Proof.Machine

/-! ### Masked slots -/

/-- The slot as `State.maskInert` leaves it: an active one as it is, an inert one with its unobservable fields (R20) put
to one value. -/
def Slot.masked (sl : Slot) : Slot :=
  if sl.active then sl else { Slot.inert with buffer := sl.buffer, gen := sl.gen }

theorem State.maskInert_eq (s : State) : s.maskInert = { s with slots := s.slots.map Slot.masked } := rfl

theorem Slot.masked_of_active {sl : Slot} (act : sl.active = true) : sl.masked = sl := if_pos act

theorem Slot.masked_of_inert {sl : Slot} (inert : sl.active = false) :
    sl.masked = { Slot.inert with buffer := sl.buffer, gen := sl.gen } := if_neg (by simp [inert])

@[simp] theorem Slot.masked_active (sl : Slot) : sl.masked.active = sl.active := by
  rcases act : sl.active with _ | _
  · rw [Slot.masked_of_inert act]
    rfl
  · rw [Slot.masked_of_active act, act]

@[simp] theorem Slot.masked_gen (sl : Slot) : sl.masked.gen = sl.gen := by
  unfold Slot.masked
  split <;> rfl

@[simp] theorem Slot.masked_masked (sl : Slot) : sl.masked.masked = sl.masked := by
  rcases act : sl.active with _ | _
  · rw [Slot.masked_of_inert act]
    rfl
  · rw [Slot.masked_of_active act, Slot.masked_of_active act]

/-- New pixels of a channel are written alike into the masked slot. -/
theorem Slot.masked_withPixels {sl : Slot} (act : sl.active = true) (b : Buffer) :
    (sl.withPixels b).masked = sl.withPixels b := Slot.masked_of_active act

/-- CONFIGURE leaves the same slot whatever the masked fields were: it reads the generation alone (R74). -/
theorem Slot.configured_released_masked (pin : PinToken) (p : Pin) (n : Half) (br : Byte) (sl : Slot) :
    sl.masked.released.configured pin p n br = sl.released.configured pin p n br := by
  rcases act : sl.active with _ | _
  · simp [Slot.released, Slot.configured, act]
  · rw [Slot.masked_of_active act]

/-- A released slot is the same but for the masked fields (R73). -/
theorem Slot.masked_released_masked (sl : Slot) : sl.masked.released.masked = sl.released.masked := by
  rcases act : sl.active with _ | _
  · simp [Slot.released, act]
  · rw [Slot.masked_of_active act]

/-! ### Reads of a masked state -/

section
variable (s : State) (h : Handle)

@[simp] theorem State.maskInert_maskInert : s.maskInert.maskInert = s.maskInert := by
  simp [State.maskInert_eq, Function.comp_def]

@[simp] theorem State.slot?_maskInert : s.maskInert.slot? h = (s.slot? h).map Slot.masked := by
  simp [State.slot?, State.maskInert_eq]

/-- A handle names the same channel: an active slot is not masked. -/
@[simp] theorem State.channel?_maskInert : s.maskInert.channel? h = s.channel? h := by
  rw [State.channel?, State.channel?, State.slot?_maskInert]
  rcases s.slot? h with _ | sl
  · rfl
  · rcases act : sl.active with _ | _
    · simp [Option.filter_some, act]
    · simp [Slot.masked_of_active act]

@[simp] theorem State.valid_maskInert : s.maskInert.valid h = s.valid h := by simp [State.valid]

@[simp] theorem State.live?_maskInert (ref : BufRef) : s.maskInert.live? ref = s.live? ref := by simp [State.live?]

@[simp] theorem State.draws_maskInert : s.maskInert.draws = s.draws := rfl

/-! ### Operations on a masked state -/

@[simp] theorem State.maskInert_returns (r : Result) : (s.returns r).maskInert = s.maskInert.returns r := rfl

@[simp] theorem State.maskInert_raiseFault (f : Fault) : (s.raiseFault f).maskInert = s.maskInert.raiseFault f := rfl

@[simp] theorem State.maskInert_refuseOpcode (op : Byte) :
    (s.refuseOpcode op).maskInert = s.maskInert.refuseOpcode op := rfl

@[simp] theorem State.maskInert_drive (p : Pin) (l : Level) : (s.drive p l).maskInert = s.maskInert.drive p l := rfl

@[simp] theorem State.maskInert_emit (p : Pin) (l : Level) (c : SegClass) :
    (s.emit p l c).maskInert = s.maskInert.emit p l c := rfl

@[simp] theorem State.maskInert_setAnim (E : Effect) (a : AnimRec) :
    (s.setAnim h E a).maskInert = s.maskInert.setAnim h E a := rfl

theorem State.maskInert_setSlot (sl : Slot) : (s.setSlot h sl).maskInert = s.maskInert.setSlot h sl.masked := by
  simp only [State.maskInert_eq, State.setSlot, Vector.map_setIfInBounds]

/-- The pixels of a channel are written alike into a masked state. -/
theorem State.maskInert_setPixels {sl : Slot} (act : sl.active = true) (b : Buffer) :
    (s.setSlot h (sl.withPixels b)).maskInert = s.maskInert.setSlot h (sl.withPixels b) := by
  rw [State.maskInert_setSlot, Slot.masked_withPixels act]

theorem State.maskInert_sendChannel (sl : Slot) : (s.sendChannel h sl).maskInert = s.maskInert.sendChannel h sl := by
  rw [State.sendChannel_eq, State.sendChannel_eq]
  rfl

@[simp] theorem State.maskInert_sendHandle : (s.sendHandle h).maskInert = s.maskInert.sendHandle h := by
  unfold State.sendHandle
  rw [State.channel?_maskInert]
  rcases s.channel? h with _ | sl
  · rfl
  · exact s.maskInert_sendChannel h sl

theorem State.maskInert_foldl_sendHandle (hs : List Handle) (s : State) :
    (hs.foldl State.sendHandle s).maskInert = hs.foldl State.sendHandle s.maskInert := by
  induction hs generalizing s with
  | nil => rfl
  | cons h hs ih => rw [List.foldl_cons, List.foldl_cons, ih, State.maskInert_sendHandle]

@[simp] theorem State.maskInert_sendAll : s.sendAll.maskInert = s.maskInert.sendAll :=
  congrArg State.waitLatch (State.maskInert_foldl_sendHandle handles s)

@[simp] theorem State.maskInert_fill (c : Pixel) : (s.fill h c).maskInert = s.maskInert.fill h c := by
  unfold State.fill
  rcases e : s.channel? h with _ | sl
  · rw [State.fillWith_of_none e, State.fillWith_of_none (by rwa [State.channel?_maskInert])]
    rfl
  · rw [State.fillWith_of_channel e, State.fillWith_of_channel ((s.channel?_maskInert h).trans e), Config.fillSends]
    simp [Slot.filled, State.maskInert_setPixels, State.active_of_channel? e]

theorem State.maskInert_animate {sl : Slot} (act : sl.active = true) (E : Effect) (frame : Slot → Int → Buffer)
    (advance : Nat → AnimRec → AnimRec) :
    (s.animate E h frame advance sl).maskInert = s.maskInert.animate E h frame advance sl := by
  rw [State.animate_eq, State.animate_eq, State.framed, State.framed, State.maskInert_setAnim, State.maskInert_sendAll,
    State.maskInert_setPixels _ _ act]
  rfl

@[simp] theorem State.maskInert_runEffect (E : Effect) (speed : Word) (frame : Slot → Int → Buffer)
    (advance : Nat → AnimRec → AnimRec) :
    (s.runEffect E h speed frame advance).maskInert = s.maskInert.runEffect E h speed frame advance := by
  unfold State.runEffect
  rw [State.channel?_maskInert]
  rcases e : s.channel? h with _ | sl
  · rfl
  · have due : s.maskInert.due h E speed = s.due h E speed := rfl
    simp only [due, apply_ite State.maskInert, State.maskInert_returns,
      State.maskInert_animate _ _ (State.active_of_channel? e)]

/-- An access of the buffer port of a masked state leaves the same where the use of the byte does. -/
theorem State.maskInert_access (ref : BufRef) (a : Word) {use use' : Slot → State}
    (same : ∀ sl, sl.active = true → (use' sl).maskInert = (use sl).maskInert) :
    (s.maskInert.access ref a use').maskInert = (s.access ref a use).maskInert := by
  unfold State.access
  rw [State.live?_maskInert]
  rcases e : s.live? ref with _ | sl
  · simp
  · simp only [apply_ite State.maskInert, same sl (State.live?_eq_some.1 e).2.1, State.maskInert_raiseFault,
      State.maskInert_maskInert]

/-- CONFIGURE of a masked state leaves the same but for the masked fields, whatever the platform answers (R74). -/
theorem State.maskInert_configureWith (resolved : Option Pin) (ok : Bool) (pin : PinToken) (n : Half) (br : Byte) :
    (s.maskInert.configureWith resolved ok h pin n br).maskInert = (s.configureWith resolved ok h pin n br).maskInert := by
  have asked : State.maskInert { s.maskInert with draws := s.draws + 1 } = State.maskInert { s with draws := s.draws + 1 } :=
    congrArg (fun u : State => { u with draws := s.draws + 1 }) s.maskInert_maskInert
  unfold State.configureWith
  rw [State.slot?_maskInert]
  rcases s.slot? h with _ | sl
  · simp
  · by_cases hn : n = 0
    · simp [hn]
    · rcases resolved with _ | p
      · simp
      · simp only [Option.map_some, if_neg hn, apply_ite State.maskInert, State.maskInert_returns, State.maskInert_emit,
          State.maskInert_drive, State.maskInert_setSlot, Slot.configured_released_masked, Slot.masked_released_masked,
          State.draws_maskInert, asked]

end

/-! ### Commands and steps of a masked state -/

/-- The next state of an outcome, masked. -/
def maskedNext (o : Host.Outcome State Fault Refusal) : Option State := (nextOf o).map State.maskInert

@[simp] theorem maskedNext_next (t : State) : maskedNext (.next t) = some t.maskInert := rfl

/-- An outcome has a next state that is masked to `u`, if the masked one is `u`. -/
theorem maskedNext_eq_some {o : Host.Outcome State Fault Refusal} {u : State} :
    maskedNext o = some u ↔ ∃ t, o = .next t ∧ t.maskInert = u := by
  cases o <;> simp [maskedNext, nextOf]

/-- A command of a masked state ends in the same state but for the masked fields. -/
theorem exec_maskInert (i : Instr) (s : State) : maskedNext (exec i s.maskInert) = maskedNext (exec i s) := by
  cases i with
  | configure h pin n br => exact congrArg some (s.maskInert_configureWith h _ _ pin n br)
  | getLedCount h | getBuffer h =>
    simp only [exec, execGetLedCount, execGetBuffer, State.channel?_maskInert]
    cases s.channel? h <;> simp
  | bufRead ref a => exact congrArg some (s.maskInert_access ref a fun _ _ => by simp)
  | bufWrite ref a v =>
    refine congrArg some (s.maskInert_access ref a fun sl act => ?_)
    simp [Slot.writeByte, State.maskInert_setPixels, act]
  | rainbows h width speed =>
    simp only [exec, execRainbows, State.valid_maskInert]
    split <;> simp
  | tick =>
    exact congrArg (fun u : State => some { u with tick := s.tick + 1, result := .nothing }) s.maskInert_maskInert
  | lookup h => simp [exec, execLookup]
  | ledOff _ | ledRed _ | ledGreen _ | ledBlue _ | ledFill _ _ _ _ =>
    simp [exec, execLedOff, execLedRed, execLedGreen, execLedBlue, execLedFill, State.maskInert_fill]
  | encodeAndSend _ | sendAll => simp [exec, execEncodeAndSend, execSendAll]
  | rainbow _ _ | rainbowCycle _ _ | theaterChase _ _ _ _ _ | colorWipe _ _ _ _ _ | pulse _ _ _ _ _ | flash _ _ _ =>
    simp [exec, execRainbow, execRainbowCycle, execTheaterChase, execColorWipe, execPulse, execFlash,
      State.maskInert_runEffect]

/-- The queue is not masked. -/
theorem State.fetch?_maskInert (s : State) : s.maskInert.fetch? = s.fetch?.map fun x => (x.1, x.2.maskInert) := by
  unfold State.fetch?
  rcases e : s.pending with _ | ⟨c, rest⟩ <;> simp [State.maskInert_eq, e]

/-- A step of a masked state ends in the same state but for the masked fields. -/
theorem step_maskInert (s : State) : maskedNext (step s.maskInert) = maskedNext (step s) := by
  unfold step
  rw [State.fetch?_maskInert]
  rcases s.fetch? with _ | ⟨c | c, taken⟩
  · simp
  · rcases hd : decode c with (op | op) | i
    · simp [hd]
    · simp [hd]
    · simpa [hd] using exec_maskInert i taken
  · rfl

/-- Settles O60: a step of either state ends, but for the masked fields, as the step of their common masked state. -/
theorem inertFieldsAreNotObservable : Obligations.InertFieldsAreNotObservable := by
  unfold Obligations.InertFieldsAreNotObservable
  intro s t s' same e
  have next : maskedNext (step t) = some s'.maskInert := by
    rw [← step_maskInert t, ← same, step_maskInert s, e, maskedNext_next]
  obtain ⟨t', ht, mask⟩ := maskedNext_eq_some.1 next
  exact ⟨t', ht, mask.symm⟩

end Sys2Proof.Machine
end

section
/-! PROOFS. What a command leaves of the marks (R35, R36) and of a slot's descriptor and generation (R18, R24). -/

namespace Sys2Proof.Machine

/-! ### The marks -/

@[simp] theorem State.sendChannel_faulted (h : Handle) (sl : Slot) (s : State) :
    (s.sendChannel h sl).faulted = s.faulted := by
  rw [State.sendChannel_eq]

@[simp] theorem State.sendChannel_refused (h : Handle) (sl : Slot) (s : State) :
    (s.sendChannel h sl).refused = s.refused := by
  rw [State.sendChannel_eq]

/-- Only a fault writes the mark `faulted`, and it sets it (R35). -/
theorem Did.faulted_of_faulted {s t : State} {i : Instr} (d : Did s i t) (m : s.faulted = true) : t.faulted = true := by
  cases d with
  | faulted _ => rfl
  | _ => simpa [State.animate_eq, State.framed] using m

/-- No command writes the mark `refused` (R36, R71). -/
theorem Did.refused_eq {s t : State} {i : Instr} (d : Did s i t) : t.refused = s.refused := by
  cases d <;> simp [State.animate_eq, State.framed]

/-- Settles O55: a command keeps both marks, and an unassigned opcode sets `refused` and keeps `faulted`. -/
theorem marksAreSticky : Obligations.MarksAreSticky := by
  unfold Obligations.MarksAreSticky
  intro s t e
  rcases step_cases e with ⟨-, rfl⟩ | ⟨c, rest, -, ⟨i, -, e⟩ | ⟨op, -, rfl⟩⟩
  · exact ⟨id, id⟩
  · have d := exec_did e
    exact ⟨d.faulted_of_faulted, fun m => d.refused_eq.trans m⟩
  · exact ⟨id, fun _ => rfl⟩

/-! ### Descriptors and generations -/

/-- How a command may have changed a slot: its pixels only, or, if the command is CONFIGURE, with a generation that is no
less (R18, R24). -/
def SlotKept (i : Instr) (sl u : Slot) : Prop :=
  u.descriptor = sl.descriptor ∨ isConfigure i = true ∧ sl.gen ≤ u.gen

theorem SlotKept.gen_le {i : Instr} {sl u : Slot} (k : SlotKept i sl u) : sl.gen ≤ u.gen := by
  rcases k with same | ⟨-, le⟩
  · simp only [Slot.descriptor, Prod.mk.injEq] at same
    obtain ⟨-, -, -, -, -, gen⟩ := same
    exact gen.ge
  · exact le

theorem Slot.gen_le_released (sl : Slot) : sl.gen ≤ sl.released.gen := by
  unfold Slot.released
  split
  · exact Nat.le_succ _
  · exact le_rfl

/-- Where one slot is written by a slot it may have become, every slot is kept. -/
theorem slotKept_of_setSlot {i : Instr} {s t : State} {h : Handle} {sl v : Slot} (slots : t.slots = (s.setSlot h v).slots)
    (hs : s.slot? h = some sl) (kept : SlotKept i sl v) (k : Handle) (x : Slot) (hk : s.slot? k = some x) :
    ∃ u, t.slot? k = some u ∧ SlotKept i x u := by
  have read : t.slot? k = (s.setSlot h v).slot? k := congrArg (·[k.toNat]?) slots
  by_cases ne : h = k
  · subst ne
    cases hs.symm.trans hk
    exact ⟨v, read.trans (State.slot?_setSlot_self (State.lt_of_slot? hs) v), kept⟩
  · exact ⟨x, read.trans ((State.slot?_setSlot_of_ne ne v).trans hk), .inl rfl⟩

/-- Where the pixels of one channel are written, every slot is kept. -/
theorem slotKept_of_setPixels {i : Instr} {s t : State} {h : Handle} {sl : Slot} {b : Buffer}
    (slots : t.slots = (s.setSlot h (sl.withPixels b)).slots) (hs : s.channel? h = some sl) (k : Handle) (x : Slot)
    (hk : s.slot? k = some x) : ∃ u, t.slot? k = some u ∧ SlotKept i x u :=
  slotKept_of_setSlot slots (State.slot?_of_channel? hs) (.inl rfl) k x hk

/-- Every command keeps every slot. -/
theorem Did.slotKept {s t : State} {i : Instr} (d : Did s i t) (k : Handle) (x : Slot) (hk : s.slot? k = some x) :
    ∃ u, t.slot? k = some u ∧ SlotKept i x u := by
  cases d with
  | returned _ _ | faulted _ | ticked _ => exact ⟨x, hk, .inl rfl⟩
  | released _ _ _ _ sl _ hi hs _ _ => exact slotKept_of_setSlot rfl hs (.inr ⟨hi ▸ rfl, sl.gen_le_released⟩) k x hk
  | configured _ _ _ _ sl _ hi hs _ _ =>
    exact slotKept_of_setSlot rfl hs (.inr ⟨hi ▸ rfl, sl.gen_le_released.trans (Nat.le_succ _)⟩) k x hk
  | wrote _ _ _ _ _ hs _ => exact slotKept_of_setPixels (State.returns_slots _ _) hs k x hk
  | filled _ _ _ _ _ hs =>
    exact slotKept_of_setPixels ((State.returns_slots _ _).trans (State.sendAll_slots _)) hs k x hk
  | sent h sl _ _ =>
    refine ⟨x, ?_, .inl rfl⟩
    rw [State.slot?_returns, State.sendChannel_eq]
    exact hk
  | sentAll _ => exact ⟨x, (congrArg (·[k.toNat]?) s.sendAll_slots).trans hk, .inl rfl⟩
  | animated _ _ _ _ _ _ hs =>
    exact slotKept_of_setPixels ((State.returns_slots _ _).trans State.animate_slots) hs k x hk

/-- Settles O57: a command that is no CONFIGURE keeps every slot but for its pixels. -/
theorem onlyConfigureWritesDescriptors : Obligations.OnlyConfigureWritesDescriptors := by
  unfold Obligations.OnlyConfigureWritesDescriptors
  intro i s t other e h sl hs
  obtain ⟨u, hu, same | ⟨configure, -⟩⟩ := (exec_did e).slotKept h sl hs
  · exact ⟨u, hu, same⟩
  · simp [other] at configure

/-- Settles O58: a command keeps every generation, but for CONFIGURE, which does not lower one. -/
theorem generationNeverDecreases : Obligations.GenerationNeverDecreases := by
  unfold Obligations.GenerationNeverDecreases
  intro i s t e h sl hs
  obtain ⟨u, hu, kept⟩ := (exec_did e).slotKept h sl hs
  exact ⟨u, hu, kept.gen_le⟩

end Sys2Proof.Machine
end

section
/-! PROOFS. The statement of 20_memory.md (R47): what SEND_ALL sends depends on the slots alone, and the commands that
neither write a buffer nor configure a slot leave them alone. -/

namespace Sys2Proof.Machine

/-! ### The commands that write no slot -/

/-- What `writesSlots` says of a single command (R47). -/
theorem exec_slots_of_not_writesSlots {i : Instr} {s t : State} (keeps : writesSlots i = false)
    (e : exec i s = .next t) : t.slots = s.slots := by
  cases i with
  | lookup h =>
    cases e
    rfl
  | getLedCount h | getBuffer h =>
    simp only [exec, execGetLedCount, execGetBuffer] at e
    split at e <;> cases e <;> rfl
  | bufRead ref a =>
    cases e
    rcases s.access_cases ref a fun sl => s.returns (.byte (sl.byteAt a.toNat)) with
      ⟨-, r⟩ | ⟨sl, -, ⟨-, r⟩ | ⟨-, r⟩⟩ <;> rw [r] <;> rfl
  | encodeAndSend h =>
    cases e
    exact s.sendHandle_slots h
  | sendAll =>
    cases e
    exact s.sendAll_slots
  | tick =>
    cases e
    rfl
  | _ => cases keeps

/-- A run of such commands completes and leaves the slots alone. -/
theorem execAll_keeps_slots {is : List Instr} (keeps : ∀ i ∈ is, writesSlots i = false) (s : State) :
    ∃ u, execAll is s = some u ∧ u.slots = s.slots := by
  induction is generalizing s with
  | nil => exact ⟨s, rfl, rfl⟩
  | cons i is ih =>
    obtain ⟨first, rest⟩ := List.forall_mem_cons.1 keeps
    obtain ⟨t, e⟩ := everyCommandCompletes i s
    obtain ⟨u, run, slots⟩ := ih rest t
    refine ⟨u, ?_, slots.trans (exec_slots_of_not_writesSlots first e)⟩
    rw [execAll, e]
    exact run

/-! ### The two transmissions -/

/-- From equal slots, SEND_ALL appends equal levels and classes to every pin's log (R104). -/
theorem State.sendAll_same_payload {s u : State} (slots : u.slots = s.slots) (p : Pin) :
    ∃ x y, s.sendAll.waveOf p = s.waveOf p ++ x ∧ u.sendAll.waveOf p = u.waveOf p ++ y ∧
      x.map Segment.shape = y.map Segment.shape := by
  obtain ⟨x, hx, shapesX⟩ := s.waveOf_sendAll p
  obtain ⟨y, hy, shapesY⟩ := u.waveOf_sendAll p
  refine ⟨x, y, hx, hy, ?_⟩
  rw [shapesX, shapesY, State.sentOn_congr slots]

/-- Settles O30: the first SEND_ALL and the commands after it leave the slots alone, so both transmissions start from
equal slots. -/
theorem sendAllTwiceSamePayload : Obligations.SendAllTwiceSamePayload := by
  unfold Obligations.SendAllTwiceSamePayload
  intro s between keeps
  obtain ⟨u, run, slots⟩ := execAll_keeps_slots keeps (s.sendAll.returns .nothing)
  have same : u.slots = s.slots := slots.trans s.sendAll_slots
  exact ⟨s.sendAll.returns .nothing, u, u.sendAll.returns .nothing, rfl, run, rfl, State.sendAll_same_payload same⟩

end Sys2Proof.Machine
end

section
/-! PROOFS. The statements of 30_encoding.md on the decoder and the encoder (R57 to R60, R62). -/

namespace Sys2Proof

open Laws.Encode (opcodeOf)

/-! ### The cases of the decoder -/

/-- A command word whose opcode is not in the map (R71). -/
theorem decode_of_unassigned {c : Command} (ho : Opcode.ofByte c.op = none) :
    decode c = .error (.unassignedOpcode c.op) := by
  simp only [decode, ho]

/-- An assigned opcode with operands that its format reads (R58). -/
theorem decode_of_read {c : Command} {op : Opcode} {i : Instr} (ho : Opcode.ofByte c.op = some op)
    (hr : decodeOperands op c.h c.operands = some i) : decode c = .ok i := by
  simp only [decode, ho, hr]

/-- An assigned opcode with operands that its format does not read (R58). -/
theorem decode_of_unread {c : Command} {op : Opcode} (ho : Opcode.ofByte c.op = some op)
    (hr : decodeOperands op c.h c.operands = none) : decode c = .error (.malformedOperands c.op) := by
  simp only [decode, ho, hr]

/-- A command decodes only through its opcode and the format of that (R57, R58). -/
theorem decode_eq_ok_iff {c : Command} {i : Instr} :
    decode c = .ok i ↔ ∃ op, Opcode.ofByte c.op = some op ∧ decodeOperands op c.h c.operands = some i := by
  constructor
  · intro hd
    rcases ho : Opcode.ofByte c.op with _ | op
    · cases (decode_of_unassigned ho).symm.trans hd
    · rcases hr : decodeOperands op c.h c.operands with _ | j
      · cases (decode_of_unread ho hr).symm.trans hd
      · cases (decode_of_read ho hr).symm.trans hd
        exact ⟨op, rfl, hr⟩
  · rintro ⟨op, ho, hr⟩
    exact decode_of_read ho hr

theorem wellFormed_of_ofByte {c : Command} {op : Opcode} (ho : Opcode.ofByte c.op = some op) :
    c.wellFormed = op.format.accepts c.operands := by
  simp only [Command.wellFormed, ho]

theorem wellFormed_iff {c : Command} :
    c.wellFormed = true ↔ ∃ op, Opcode.ofByte c.op = some op ∧ op.format.accepts c.operands = true := by
  rcases ho : Opcode.ofByte c.op with _ | op
  · simp [Command.wellFormed, ho]
  · simp [wellFormed_of_ofByte ho]

/-! ### The opcode map -/

/-- Every opcode stands in the map as R59 writes it out. -/
theorem Opcode.toByte_mem (op : Opcode) : op.toByte ∈ ([0x01, 0x02, 0x03, 0x04, 0x05, 0x06, 0x10, 0x11, 0x12, 0x13, 0x14,
    0x20, 0x21, 0x30, 0x31, 0x32, 0x33, 0x34, 0x35, 0x36, 0x3F] : List Byte) := by
  cases op <;> decide

/-! ### Encode, then decode -/

/-- An encoding is its opcode's word, with a handle and operands that read as the command (R57, R58). -/
theorem exists_encode_eq (i : Instr) : ∃ h ops, encode i = ⟨commandWord (opcodeOf i) h, ops⟩ ∧
    decodeOperands (opcodeOf i) h ops = some i := by
  cases i <;> exact ⟨_, _, rfl, rfl⟩

/-- Settles O9: the fields of the encoded word read back as the opcode and the handle, and with them the operands read
as the command. -/
theorem encodedCommandDecodes : Obligations.EncodedCommandDecodes := by
  unfold Obligations.EncodedCommandDecodes
  intro i
  obtain ⟨h, ops, he, hr⟩ := exists_encode_eq i
  rw [he]
  refine decode_of_read (op := opcodeOf i) ?_ ?_
  · rw [commandWord_op, Opcode.ofByte_toByte]
  · rw [commandWord_h]
    exact hr

/-! ### What the decoder accepts -/

/-- Settles O10: each format's reader accepts what the format table lists. -/
theorem decoderAcceptsExactlyWellFormed : Obligations.DecoderAcceptsExactlyWellFormed := by
  unfold Obligations.DecoderAcceptsExactlyWellFormed
  intro c
  calc (∃ i, decode c = .ok i)
    _ ↔ ∃ op, Opcode.ofByte c.op = some op ∧ (decodeOperands op c.h c.operands).isSome := by
      simp only [decode_eq_ok_iff, Option.isSome_iff_exists]
      exact ⟨fun ⟨i, op, ho, hr⟩ => ⟨op, ho, i, hr⟩, fun ⟨op, ho, i, hr⟩ => ⟨i, op, ho, hr⟩⟩
    _ ↔ c.wellFormed = true := by simp only [decodeOperands_isSome, wellFormed_iff]

/-! ### Decode, then encode: what each reader has read (R58) -/

theorem eq_of_readNone {i j : Instr} {ops : List Operand} (e : readNone i ops = some j) : ops = [] ∧ j = i := by
  unfold readNone at e
  split at e <;> cases e
  exact ⟨rfl, rfl⟩

theorem exists_of_readCfg {f} {ops : List Operand} {i : Instr} (e : readCfg f ops = some i) :
    ∃ p n br, ops = [.pin p, .u16 n, .u8 br] ∧ i = f p n br := by
  unfold readCfg at e
  split at e <;> cases e
  exact ⟨_, _, _, rfl, rfl⟩

theorem exists_of_readFill {f} {ops : List Operand} {i : Instr} (e : readFill f ops = some i) :
    ∃ r g b, ops = [.u32 r, .u32 g, .u32 b] ∧ i = f r g b := by
  unfold readFill at e
  split at e <;> cases e
  exact ⟨_, _, _, rfl, rfl⟩

theorem exists_of_readBr {f} {ops : List Operand} {i : Instr} (e : readBr f ops = some i) :
    ∃ r a, ops = [.ref r, .u32 a] ∧ i = f r a := by
  unfold readBr at e
  split at e <;> cases e
  exact ⟨_, _, rfl, rfl⟩

theorem exists_of_readBw {f} {ops : List Operand} {i : Instr} (e : readBw f ops = some i) :
    ∃ r a v, ops = [.ref r, .u32 a, .u8 v] ∧ i = f r a v := by
  unfold readBw at e
  split at e <;> cases e
  exact ⟨_, _, _, rfl, rfl⟩

theorem exists_of_readEs {f} {ops : List Operand} {i : Instr} (e : readEs f ops = some i) :
    ∃ speed, ops = [.u32 speed] ∧ i = f speed := by
  unfold readEs at e
  split at e <;> cases e
  exact ⟨_, rfl, rfl⟩

theorem exists_of_readEws {f} {ops : List Operand} {i : Instr} (e : readEws f ops = some i) :
    ∃ width speed, ops = [.u16 width, .u32 speed] ∧ i = f width speed := by
  unfold readEws at e
  split at e <;> cases e
  exact ⟨_, _, rfl, rfl⟩

theorem exists_of_readErgbs {f} {ops : List Operand} {i : Instr} (e : readErgbs f ops = some i) :
    ∃ r g b speed, ops = [.u8 r, .u8 g, .u8 b, .u32 speed] ∧ i = f r g b speed := by
  unfold readErgbs at e
  split at e <;> cases e
  exact ⟨_, _, _, _, rfl, rfl⟩

theorem exists_of_readEbs {f} {ops : List Operand} {i : Instr} (e : readEbs f ops = some i) :
    ∃ v speed, ops = [.u8 v, .u32 speed] ∧ i = f v speed := by
  unfold readEbs at e
  split at e <;> cases e
  exact ⟨_, _, rfl, rfl⟩

/-- The handle an encoding carries: the one the command had, or zero in the formats that ignore `H` (R58). -/
def Format.keptHandle (h : Handle) : Format → Handle
  | .n => 0
  | .br => 0
  | .bw => 0
  | .h => h
  | .cfg => h
  | .fill => h
  | .es => h
  | .ews => h
  | .ergbs => h
  | .ebs => h

theorem Format.keptHandle_eq {f : Format} (n : f ≠ .n) (br : f ≠ .br) (bw : f ≠ .bw) (h : Handle) :
    keptHandle h f = h := by
  cases f with
  | n => exact absurd rfl n
  | br => exact absurd rfl br
  | bw => exact absurd rfl bw
  | _ => rfl

/-- What was read encodes back to the opcode, the handle its format keeps, and the operands (R57, R58). -/
theorem encode_of_read {op : Opcode} {h : Handle} {ops : List Operand} {i : Instr}
    (e : decodeOperands op h ops = some i) : encode i = ⟨commandWord op (Format.keptHandle h op.format), ops⟩ := by
  cases op with
  | lookup | getLedCount | getBuffer | ledOff | ledRed | ledGreen | ledBlue | encodeAndSend | sendAll | tick =>
    obtain ⟨rfl, rfl⟩ := eq_of_readNone e
    rfl
  | configure =>
    obtain ⟨p, n, br, rfl, rfl⟩ := exists_of_readCfg e
    rfl
  | ledFill =>
    obtain ⟨r, g, b, rfl, rfl⟩ := exists_of_readFill e
    rfl
  | bufRead =>
    obtain ⟨r, a, rfl, rfl⟩ := exists_of_readBr e
    rfl
  | bufWrite =>
    obtain ⟨r, a, v, rfl, rfl⟩ := exists_of_readBw e
    rfl
  | rainbow | rainbowCycle =>
    obtain ⟨speed, rfl, rfl⟩ := exists_of_readEs e
    rfl
  | rainbows =>
    obtain ⟨width, speed, rfl, rfl⟩ := exists_of_readEws e
    rfl
  | theaterChase | colorWipe | pulse =>
    obtain ⟨r, g, b, speed, rfl, rfl⟩ := exists_of_readErgbs e
    rfl
  | flash =>
    obtain ⟨v, speed, rfl, rfl⟩ := exists_of_readEbs e
    rfl

/-- The two fields of a command word make the word (R57). -/
theorem commandWord_of_fields {c : Command} {op : Opcode} (ho : c.op = op.toByte) : commandWord op c.h = c.cw := by
  rw [commandWord, ← ho, Command.op, Command.h]
  ext i hi
  by_cases low : i < 8
  · simp [low, BitVec.getLsbD_eq_getElem hi]
  · simp [low, show 8 + (i - 8) = i by omega, show i - 8 < 8 by omega, hi]

/-- Settles O11: the encoding has the operands that were read under the opcode they were read for, and the word is made
of its two fields. -/
theorem decodedCommandEncodesBack : Obligations.DecodedCommandEncodesBack := by
  unfold Obligations.DecodedCommandEncodesBack
  intro c i op hd ho
  obtain ⟨op', ho', hr⟩ := decode_eq_ok_iff.1 hd
  cases ho.symm.trans ho'
  have hop : c.op = op.toByte := Opcode.eq_toByte_of_ofByte ho
  have he := encode_of_read hr
  refine ⟨by rw [he], by rw [he, commandWord_op, hop], fun n br bw => ?_⟩
  rw [he, Format.keptHandle_eq n br bw, commandWord_of_fields hop]

/-! ### Words of the spec -/

/-- Settles O8, by running the decoder on each word. -/
theorem specWordsDecode : Obligations.SpecWordsDecode := ⟨rfl, rfl, rfl, rfl, rfl, rfl, rfl⟩

end Sys2Proof
end

section
/-! PROOFS. The statements of 30_encoding.md on what a step answers to a command that does not decode (R58, R71) and on the
named fills (R64). -/

namespace Sys2Proof.Machine

/-! ### A step on a command that does not decode -/

/-- The arm of `step` for an opcode that is not assigned (R71). -/
theorem step_of_decode_unassigned {s taken : State} {c : Command} {op : Byte} (hf : s.fetch? = some (.command c, taken))
    (hd : decode c = .error (.unassignedOpcode op)) : step s = .next (taken.refuseOpcode op) := by
  simp only [step, hf, hd]

/-- The arm of `step` for operands that do not fit the opcode's format (R58; notes/assumptions/2.md). -/
theorem step_of_decode_malformed {s taken : State} {c : Command} {op : Byte} (hf : s.fetch? = some (.command c, taken))
    (hd : decode c = .error (.malformedOperands op)) : step s = .refused (.malformedOperands op) := by
  simp only [step, hf, hd]

/-- Settles O4: an opcode that the map does not list is none that the decoder finds. -/
theorem stepMarksUnassignedOpcode : Obligations.StepMarksUnassignedOpcode := by
  unfold Obligations.StepMarksUnassignedOpcode
  intro s c rest hp unlisted
  have ho : Opcode.ofByte c.op = none := Option.eq_none_iff_forall_ne_some.2 fun op ho =>
    unlisted (Opcode.eq_toByte_of_ofByte ho ▸ op.toByte_mem)
  exact step_of_decode_unassigned (State.fetch?_of_pending hp) (decode_of_unassigned ho)

/-- Settles O5: operands that the format does not accept are not read, and the step stops with the decoder's reason. -/
theorem stepStopsOnMalformedOperands : Obligations.StepStopsOnMalformedOperands := by
  unfold Obligations.StepStopsOnMalformedOperands
  intro s c rest op hp ho malformed
  have hr : decodeOperands op c.h c.operands = none := by
    rw [← Option.not_isSome_iff_eq_none, decodeOperands_isSome, ← wellFormed_of_ofByte ho, malformed]
    exact Bool.false_ne_true
  exact step_of_decode_malformed (State.fetch?_of_pending hp) (decode_of_unread ho hr)

/-! ### The named fills -/

theorem clamp8_zero : clamp8 0 = 0 := by decide

theorem clamp8_255 : clamp8 255 = 255 := by decide

/-- Settles O24: the clamping of LED_FILL leaves the named colours as they are (R61). -/
theorem namedFillsEqualLedFill : Obligations.NamedFillsEqualLedFill := by
  unfold Obligations.NamedFillsEqualLedFill
  intro h s
  simp only [exec, execLedOff, execLedRed, execLedGreen, execLedBlue, execLedFill, clamp8_zero, clamp8_255, and_self]

end Sys2Proof.Machine
end

section
/-! PROOFS. The statements of 30_encoding.md on the symbols (R68) and on the latch that ends every frame (R69, R103). -/

namespace Sys2Proof.Machine

/-! ### Symbols -/

/-- Settles O35: a symbol is one interval of each length, in the order its bit gives them. -/
theorem symbolPeriodIsConstant : Obligations.SymbolPeriodIsConstant := by
  unfold Obligations.SymbolPeriodIsConstant
  intro T
  refine ⟨?_, ?_, T.short_lt_long⟩
  · simp [nominalLength, symbol_eq, symbolClass, SegClass.nominal, Timing.tBit, add_comm]
  · simp [nominalLength, symbol_eq, symbolClass, SegClass.nominal, Timing.tBit]

/-! ### The latch at the end of a frame -/

/-- A latch is at least its nominal length less the tolerance, and so at least the strip's threshold, long (R69, R162). -/
theorem le_drawSegment_latch (k : Nat) : Config.timing.tLatch - Config.timing.tol ≤ (drawSegment k .low .latch).d :=
  le_durationWith Config.timing Config.draws k .low (by decide)

/-- The segments of a frame are those of its bytes and then a low latch (R70). -/
theorem segments_frame_eq (k : Nat) (sl : Slot) :
    ∃ body n, segments k sl.frame = body ++ [drawSegment n .low .latch] :=
  ⟨_, _, segments_append k _ [(.low, .latch)]⟩

/-! ### Logs that grow by whole frames -/

/-- Segments that are whole frames of active channels on a pin, one after another. -/
def State.WholeFrames (t : State) (p : Pin) (new : List Segment) : Prop :=
  ∃ frames : List (List Segment), new = frames.flatten ∧
    ∀ f ∈ frames, ∃ h sl k, t.channel? h = some sl ∧ sl.portBit = p ∧ f = segments k sl.frame

namespace State.WholeFrames

variable {t : State} {p : Pin}

theorem nil : t.WholeFrames p [] := ⟨[], rfl, by simp⟩

theorem append {xs ys : List Segment} : t.WholeFrames p xs → t.WholeFrames p ys → t.WholeFrames p (xs ++ ys) := by
  rintro ⟨fs, rfl, hf⟩ ⟨gs, rfl, hg⟩
  exact ⟨fs ++ gs, List.flatten_append.symm, List.forall_mem_append.2 ⟨hf, hg⟩⟩

theorem frameOn (k : Nat) (h : Handle) : t.WholeFrames p (t.frameOn p k h) := by
  unfold State.frameOn
  split
  next sl hs =>
    split
    next hp => exact ⟨[segments k sl.frame], by simp, by simpa using ⟨h, sl, hs, hp, k, rfl⟩⟩
    next => exact nil
  next => exact nil

theorem flatMap_frameOn (start : Handle → Nat) (hs : List Handle) :
    t.WholeFrames p (hs.flatMap fun h => t.frameOn p (start h) h) := by
  induction hs with
  | nil => exact nil
  | cons h hs ih => exact (frameOn (start h) h).append ih

/-- Which channels there are is a matter of the slots alone. -/
theorem congr {u : State} {new : List Segment} (slots : u.slots = t.slots) (w : t.WholeFrames p new) :
    u.WholeFrames p new := by
  simpa only [State.WholeFrames, State.channel?_congr slots] using w

end State.WholeFrames

/-- A pin's log in `t` is the log in `s` and then whole frames of channels of `t`. -/
def State.AppendsFrames (s t : State) (p : Pin) : Prop := ∃ new, t.waveOf p = s.waveOf p ++ new ∧ t.WholeFrames p new

/-- What a log grows by is a matter of the logs and the slots alone. -/
theorem State.AppendsFrames.congr {s t s' t' : State} {p : Pin} (a : s.AppendsFrames t p) (sw : s'.wave = s.wave)
    (tw : t'.wave = t.wave) (ts : t'.slots = t.slots) : s'.AppendsFrames t' p := by
  obtain ⟨new, wave, whole⟩ := a
  refine ⟨new, ?_, whole.congr ts⟩
  simpa only [State.waveOf, sw, tw] using wave

/-- A command that leaves the logs alone appends no frame. -/
theorem State.appendsFrames_of_wave_eq {s t : State} (wave : t.wave = s.wave) (p : Pin) : s.AppendsFrames t p :=
  ⟨[], by simp only [State.waveOf, wave, List.append_nil], .nil⟩

/-- A handle's turn appends the channel's frame, or nothing (R104). -/
theorem State.appendsFrames_sendHandle (s : State) (h : Handle) (p : Pin) : s.AppendsFrames (s.sendHandle h) p :=
  ⟨_, s.sendHandle_waveOf h p, (WholeFrames.frameOn s.draws h).congr (s.sendHandle_slots h)⟩

/-- SEND_ALL appends the frames of the active channels (R104). -/
theorem State.appendsFrames_sendAll (s : State) (p : Pin) : s.AppendsFrames s.sendAll p := by
  obtain ⟨start, -, wave⟩ := s.waveOf_sendAll_eq
  exact ⟨_, wave p, (WholeFrames.flatMap_frameOn start _).congr s.sendAll_slots⟩

theorem State.sendHandle_of_channel? {s : State} {h : Handle} {sl : Slot} (hs : s.channel? h = some sl) :
    s.sendHandle h = s.sendChannel h sl := by
  simp only [State.sendHandle, hs]

/-- What any command but CONFIGURE appends to a pin's log is whole frames. -/
theorem Did.appendsFrames {s t : State} {i : Instr} (d : Did s i t) (other : isConfigure i = false) (p : Pin) :
    s.AppendsFrames t p := by
  cases d with
  | returned _ _ | faulted _ | wrote _ _ _ _ _ _ _ | ticked _ => exact State.appendsFrames_of_wave_eq rfl p
  | released _ _ _ _ _ _ hi _ _ _ | configured _ _ _ _ _ _ hi _ _ _ =>
    subst hi
    cases other
  | filled h c sl _ _ _ =>
    exact ((s.setSlot h (sl.filled c)).appendsFrames_sendAll p).congr rfl (State.returns_wave _ _)
      (State.returns_slots _ _)
  | sent h sl _ hs =>
    rw [← State.sendHandle_of_channel? hs]
    exact (s.appendsFrames_sendHandle h p).congr rfl (State.returns_wave _ _) (State.returns_slots _ _)
  | sentAll _ => exact (s.appendsFrames_sendAll p).congr rfl (State.returns_wave _ _) (State.returns_slots _ _)
  | animated h x _ E sl _ _ =>
    rw [State.animate_eq]
    exact ((s.framed h E (E.frame x) sl).appendsFrames_sendAll p).congr rfl
      (by rw [State.returns_wave, State.setAnim_wave]) (by rw [State.returns_slots, State.setAnim_slots])

/-! ### The low line between two frames -/

/-- Every segment of a log has the length its class needs (R69). -/
theorem State.Inv.segment_ok {s : State} (w : s.Inv) {p : Pin} {g : Segment} (hg : g ∈ s.waveOf p) :
    g.ok Config.timing := by
  rcases w.waveOf_ok p with none | ⟨-, -, ok⟩
  · simp [none] at hg
  · exact (ok g hg).2

/-- A stretch with a latch in it is at least as long as the latch, since no segment has a negative length. -/
theorem tResetMin_le_sum {T : Timing} {gap : List Segment} (ok : ∀ g ∈ gap, g.ok T)
    (latch : ∃ g ∈ gap, g.cls = .latch) : T.tResetMin ≤ (gap.map Segment.d).sum := by
  obtain ⟨g, hg, cls⟩ := latch
  have nonneg : ∀ x ∈ gap.map Segment.d, 0 ≤ x := List.forall_mem_map.2 fun x hx => (ok x hx).1
  calc T.tResetMin
    _ ≤ g.d := ((ok g hg).2 cls).2
    _ ≤ (gap.map Segment.d).sum := List.single_le_sum nonneg _ (List.mem_map_of_mem hg)

/-- Settles O33: a log grows by whole frames, each of which ends in a latch, and the invariant keeps the latch of a low
stretch long enough. -/
theorem latchEndsEveryFrame : Obligations.LatchEndsEveryFrame := by
  unfold Obligations.LatchEndsEveryFrame
  constructor
  · intro i s t p other e
    obtain ⟨_, wave, frames, rfl, whole⟩ := (exec_did e).appendsFrames other p
    refine ⟨frames, wave, fun f hf => ?_⟩
    obtain ⟨h, sl, k, hs, hp, rfl⟩ := whole f hf
    obtain ⟨body, n, split⟩ := segments_frame_eq k sl
    exact ⟨h, sl, body, _, hs, hp, segments_map_shape k sl.frame, split, rfl, le_drawSegment_latch n,
      Config.timing.latch_guard.trans (le_drawSegment_latch n)⟩
  · intro s p before gap after w wave _ latch
    refine tResetMin_le_sum (fun g hg => w.segment_ok (p := p) ?_) latch
    rw [wave]
    exact List.mem_append_left _ (List.mem_append_right _ hg)

end Sys2Proof.Machine
end

section
/-! PROOFS. The statements of 40_registry_ops.md on the buffer port (R81 to R84). -/

namespace Sys2Proof.Machine

/-! ### Bytes and components -/

/-- A pixel's components by offset: red, green, and blue from there on (R41). -/
theorem pixelComponent_eq_ite (px : Pixel) (c : Nat) :
    pixelComponent px c = if c = 0 then px.r else if c = 1 then px.g else px.b := by
  match c with
  | 0 => rfl
  | 1 => rfl
  | _ + 2 => rfl

/-- The component that a write at an offset sets (R42). -/
theorem setPixelComponent_eq_ite (v : Byte) (c : Nat) (px : Pixel) :
    setPixelComponent v c px =
      if c = 0 then { px with r := v } else if c = 1 then { px with g := v } else { px with b := v } := by
  match c with
  | 0 => rfl
  | 1 => rfl
  | _ + 2 => rfl

/-- The pixel that holds a byte of a channel's buffer (R19, R41). -/
theorem Slot.exists_pixel_of_lt_byteCount {sl : Slot} (ok : sl.bufferOk = true) (act : sl.active = true) {a : Nat}
    (lt : a < sl.byteCount) : ∃ px, sl.pixels[a / 3]? = some px := by
  have len := (Slot.bufferOk_active ok act).2
  have inside : a / 3 < sl.pixels.length := by
    unfold Slot.byteCount at lt
    omega
  exact ⟨_, List.getElem?_eq_getElem inside⟩

theorem Slot.byteAt_of_pixel {sl : Slot} {a : Nat} {px : Pixel} (hpx : sl.pixels[a / 3]? = some px) :
    sl.byteAt a = pixelComponent px (a % 3) := by
  simp only [Slot.byteAt, List.getD_eq_getElem?_getD, hpx, Option.getD_some]

theorem Slot.pixels_writeByte {sl : Slot} {a : Nat} {px : Pixel} (hpx : sl.pixels[a / 3]? = some px) (v : Byte) :
    (sl.writeByte a v).pixels = sl.pixels.set (a / 3) (setPixelComponent v (a % 3) px) := by
  change sl.pixels.modify (a / 3) (setPixelComponent v (a % 3)) = _
  rw [List.modify_eq_set_getElem?, hpx]
  rfl

theorem State.byte?_of_channel? {s : State} {h : Handle} {sl : Slot} (hs : s.channel? h = some sl) (a : Nat) :
    s.byte? h a = if a < sl.byteCount then some (sl.byteAt a) else none := by
  simp only [State.byte?, hs, Option.bind_some]

/-- A channel whose byte is written is still one, with that byte written. -/
theorem State.channel?_writeByte {s : State} {h : Handle} {sl : Slot} (hs : s.channel? h = some sl) (a : Nat)
    (v : Byte) : (s.setSlot h (sl.writeByte a v)).channel? h = some (sl.writeByte a v) := by
  have act : sl.active = true := State.active_of_channel? hs
  exact State.channel?_setSlot_self (State.lt_of_channel? hs) act

/-- A byte of the memory reads as it was written (R42). -/
theorem State.byte?_writeByte_self {s : State} {h : Handle} {sl : Slot} (hs : s.channel? h = some sl) {a : Nat}
    (lt : a < sl.byteCount) {px : Pixel} (hpx : sl.pixels[a / 3]? = some px) (v : Byte) :
    (s.setSlot h (sl.writeByte a v)).byte? h a = some v := by
  have inside : a / 3 < sl.pixels.length := (List.getElem?_eq_some_iff.1 hpx).1
  rw [State.byte?_of_channel? (State.channel?_writeByte hs a v), Slot.byteAt_writeByte_self inside]
  exact if_pos lt

/-- A write to one byte leaves every other byte of the memory as it was (R42). -/
theorem State.byte?_writeByte_of_ne {s : State} {h : Handle} {sl : Slot} (hs : s.channel? h = some sl) {a : Nat}
    {k : Handle} {b : Nat} (ne : k ≠ h ∨ b ≠ a) (v : Byte) :
    (s.setSlot h (sl.writeByte a v)).byte? k b = s.byte? k b := by
  by_cases hk : h = k
  · subst hk
    have other : a ≠ b := (ne.resolve_left fun n => n rfl).symm
    rw [State.byte?_of_channel? (State.channel?_writeByte hs a v), State.byte?_of_channel? hs,
      Slot.byteAt_writeByte_of_ne other]
    rfl
  · exact State.byte?_setSlot_of_ne hk _ b

/-! ### An access of the buffer port -/

section Access

variable {s : State} {ref : BufRef} {a : Word} {use : Slot → State}

/-- A reference that is not live faults first (R82, R83). -/
theorem State.access_of_stale (stale : s.live? ref = none) :
    s.access ref a use = s.raiseFault (.staleBufferReference ref.handle ref.gen) := by
  simp only [State.access, stale]

/-- Through a live reference only the bound is left to check (R140). -/
theorem State.access_of_live {sl : Slot} (live : s.live? ref = some sl) :
    s.access ref a use =
      if sl.byteCount ≤ a.toNat then s.raiseFault (.bufferOutOfBounds ref.handle a) else use sl := by
  simp only [State.access, live]

/-- The buffer port leaves pins and other slots alone where the access itself does, since its faults do (R84, R145). -/
theorem State.access_frame (used : ∀ sl, (use sl).level = s.level ∧ (use sl).wave = s.wave ∧
      ∀ k, k ≠ ref.handle → (use sl).slot? k = s.slot? k) :
    (s.access ref a use).level = s.level ∧ (s.access ref a use).wave = s.wave ∧
      ∀ k, k ≠ ref.handle → (s.access ref a use).slot? k = s.slot? k := by
  rcases s.access_cases ref a use with ⟨-, r⟩ | ⟨sl, -, ⟨-, r⟩ | ⟨-, r⟩⟩ <;> rw [r]
  · exact ⟨rfl, rfl, fun _ _ => rfl⟩
  · exact ⟨rfl, rfl, fun _ _ => rfl⟩
  · exact used sl

end Access

/-- Settles O18: the reference, the bound and the byte, in the order of an access; the form of the memory gives the pixel
that holds the byte. -/
theorem bufReadReadsByteOrFaults : Obligations.BufReadReadsByteOrFaults := by
  unfold Obligations.BufReadReadsByteOrFaults
  intro ref a s
  constructor
  · intro stale
    exact congrArg Host.Outcome.next (State.access_of_stale (State.live?_eq_none.2 stale))
  · intro sl hs act gen
    constructor
    · exact (congrArg Host.Outcome.next (State.access_of_live (State.live?_eq_some.2 ⟨hs, act, gen⟩))).trans
        (apply_ite Host.Outcome.next _ _ _)
    · intro w lt
      obtain ⟨px, hpx⟩ := Slot.exists_pixel_of_lt_byteCount (Memory.bufferOk_of_slot? w hs) act lt
      exact ⟨px, hpx, (Slot.byteAt_of_pixel hpx).trans (pixelComponent_eq_ite px _)⟩

/-- Settles O19: past the reference and the bound, the write is one `Slot.writeByte`, which replaces one component of the
pixel that holds the byte. -/
theorem bufWriteWritesOneByteOrFaults : Obligations.BufWriteWritesOneByteOrFaults := by
  unfold Obligations.BufWriteWritesOneByteOrFaults
  intro ref a v s w
  constructor
  · intro stale
    exact congrArg Host.Outcome.next (State.access_of_stale (State.live?_eq_none.2 stale))
  · intro sl hs act gen
    have live : s.live? ref = some sl := State.live?_eq_some.2 ⟨hs, act, gen⟩
    split
    next past => exact congrArg Host.Outcome.next ((State.access_of_live live).trans (if_pos past))
    next inside =>
      have lt : a.toNat < sl.byteCount := Nat.lt_of_not_le inside
      have channel : s.channel? ref.handle = some sl := State.channel?_eq_some.2 ⟨hs, act⟩
      obtain ⟨px, hpx⟩ := Slot.exists_pixel_of_lt_byteCount (Memory.bufferOk_of_slot? w hs) act lt
      refine ⟨(s.setSlot ref.handle (sl.writeByte a.toNat v)).returns .nothing,
        congrArg Host.Outcome.next ((State.access_of_live live).trans (if_neg inside)),
        State.byte?_writeByte_self channel lt hpx v, fun k b ne => State.byte?_writeByte_of_ne channel ne v, rfl,
        fun k ne => State.slot?_setSlot_of_ne ne.symm _, sl.writeByte a.toNat v, px,
        State.slot?_setSlot_self (State.lt_of_slot? hs) _, rfl, hpx, ?_⟩
      rw [Slot.pixels_writeByte hpx, setPixelComponent_eq_ite]

/-- Settles O20: a fault and a read leave pins and slots alone, a write sets the one slot, and its descriptor is what
every command but CONFIGURE keeps. -/
theorem bufferPortMovesNoPin : Obligations.BufferPortMovesNoPin := by
  unfold Obligations.BufferPortMovesNoPin
  intro ref a v s t e
  have descriptor : ∀ sl, s.slot? ref.handle = some sl →
      ∃ u, t.slot? ref.handle = some u ∧ u.descriptor = sl.descriptor := by
    rcases e with e | e
    · exact onlyConfigureWritesDescriptors _ s t rfl e ref.handle
    · exact onlyConfigureWritesDescriptors _ s t rfl e ref.handle
  have frame : t.level = s.level ∧ t.wave = s.wave ∧ ∀ k, k ≠ ref.handle → t.slot? k = s.slot? k := by
    rcases e with e | e <;> cases e
    · exact State.access_frame fun _ => ⟨rfl, rfl, fun _ _ => rfl⟩
    · exact State.access_frame fun _ => ⟨rfl, rfl, fun _ ne => State.slot?_setSlot_of_ne ne.symm _⟩
  obtain ⟨level, wave, others⟩ := frame
  exact ⟨level, wave, others, descriptor⟩

end Sys2Proof.Machine
end

section
/-! PROOFS. The statements of 40_registry_ops.md on the registry: the queries LOOKUP, GET_LED_COUNT and GET_BUFFER (R76 to
R78, R80), and CONFIGURE (R74, R79, R81, R158). -/

namespace Sys2Proof.Machine

/-! ### The queries -/

theorem exec_getLedCount_of_channel? {s : State} {h : Handle} {sl : Slot} (hs : s.channel? h = some sl) :
    exec (.getLedCount h) s = .next (s.returns (.count (sl.pixelCount.setWidth 32))) := by
  simp only [exec, execGetLedCount, hs]

theorem exec_getLedCount_of_none {s : State} {h : Handle} (hs : s.channel? h = none) :
    exec (.getLedCount h) s = .next (s.returns (.count 0)) := by
  simp only [exec, execGetLedCount, hs]

theorem exec_getBuffer_of_channel? {s : State} {h : Handle} {sl : Slot} (hs : s.channel? h = some sl) :
    exec (.getBuffer h) s = .next (s.returns (.reference (some ⟨h, sl.gen⟩))) := by
  simp only [exec, execGetBuffer, hs]

theorem exec_getBuffer_of_none {s : State} {h : Handle} (hs : s.channel? h = none) :
    exec (.getBuffer h) s = .next (s.returns (.reference none)) := by
  simp only [exec, execGetBuffer, hs]

/-- Settles O15: a handle is valid if and only if its slot exists and is active. -/
theorem lookupReturnsValidHandle : Obligations.LookupReturnsValidHandle := by
  unfold Obligations.LookupReturnsValidHandle
  intro h s
  simp only [exec, execLookup, State.returns, State.valid_iff, State.channel?_eq_some]

/-- Settles O16, by whether the handle names a channel. -/
theorem getLedCountReturnsCount : Obligations.GetLedCountReturnsCount := by
  unfold Obligations.GetLedCountReturnsCount
  intro h s
  exact ⟨fun sl hs act => exec_getLedCount_of_channel? (State.channel?_eq_some.2 ⟨hs, act⟩),
    fun inert => exec_getLedCount_of_none (State.channel?_eq_none.2 inert)⟩

/-- Settles O17, by whether the handle names a channel. -/
theorem getBufferReturnsReference : Obligations.GetBufferReturnsReference := by
  unfold Obligations.GetBufferReturnsReference
  intro h s
  exact ⟨fun sl hs act => exec_getBuffer_of_channel? (State.channel?_eq_some.2 ⟨hs, act⟩),
    fun inert => exec_getBuffer_of_none (State.channel?_eq_none.2 inert)⟩

/-! ### CONFIGURE -/

/-- The slot of a successful CONFIGURE: the release of an active one counts as a generation too (R73, R74). -/
theorem Slot.configured_released (pin : PinToken) (p : Pin) (n : Half) (br : Byte) (sl : Slot) :
    sl.released.configured pin p n br = ⟨true, pin, p, n, br, some (List.replicate n.toNat ⟨0, 0, 0⟩),
      if sl.active then sl.gen + 2 else sl.gen + 1⟩ := by
  unfold Slot.released
  split <;> rfl

section Configure

variable {resolved : Option Pin} {p : Pin} {h : Handle} {sl : Slot} (pin : PinToken) {n : Half} (br : Byte) {s : State}

theorem State.configureWith_of_rejected (alloc : Bool)
    (rejected : Config.maxChannels ≤ h.toNat ∨ n = 0 ∨ resolved = none) :
    s.configureWith resolved alloc h pin n br = s.returns (.success false) := by
  rcases s.configureWith_cases resolved alloc h pin n br with ⟨-, r⟩ | ⟨sl, p, hs, hn, hp, -⟩
  · exact r
  · rcases rejected with absent | zero | unresolved
    · exact absurd (State.lt_of_slot? hs) (Nat.not_lt.2 absent)
    · exact absurd zero hn
    · simp [hp] at unresolved

theorem State.configureWith_of_allocated (hs : s.slot? h = some sl) (hn : n ≠ 0) :
    s.configureWith (some p) true h pin n br =
      (((State.setSlot h (sl.released.configured pin p n br) { s with draws := s.draws + 1 }).drive p .low).emit p .low
        .idle).returns (.success true) := by
  simp only [State.configureWith, hs, if_neg hn, if_true]

theorem State.configureWith_of_not_allocated (hs : s.slot? h = some sl) (hn : n ≠ 0) :
    s.configureWith (some p) false h pin n br =
      (State.setSlot h sl.released { s with draws := s.draws + 1 }).returns (.success false) := by
  simp only [State.configureWith, hs, if_neg hn, Bool.false_eq_true, if_false]

/-- The slot that a successful CONFIGURE leaves (R74). -/
theorem State.slot?_configureWith_of_allocated (hs : s.slot? h = some sl) (hn : n ≠ 0) :
    (s.configureWith (some p) true h pin n br).slot? h = some (sl.released.configured pin p n br) := by
  rw [State.configureWith_of_allocated pin br hs hn]
  exact State.slot?_setSlot_self (State.lt_of_slot? hs) _

/-- The slot that a failed allocation leaves (R74). -/
theorem State.slot?_configureWith_of_not_allocated (hs : s.slot? h = some sl) (hn : n ≠ 0) :
    (s.configureWith (some p) false h pin n br).slot? h = some sl.released := by
  rw [State.configureWith_of_not_allocated pin br hs hn]
  exact State.slot?_setSlot_self (State.lt_of_slot? hs) _

/-- What CONFIGURE leaves alone whatever it answers: other slots, marks, engine and the host's state. -/
theorem State.configureWith_frame (resolved : Option Pin) (alloc : Bool) (h : Handle) (n : Half) (s : State) :
    (∀ k, k ≠ h → (s.configureWith resolved alloc h pin n br).slot? k = s.slot? k) ∧
      keepsMarks s (s.configureWith resolved alloc h pin n br) ∧
      (s.configureWith resolved alloc h pin n br).tick = s.tick ∧
      (s.configureWith resolved alloc h pin n br).anim = s.anim ∧
      (s.configureWith resolved alloc h pin n br).engine = s.engine := by
  rcases s.configureWith_cases resolved alloc h pin n br with ⟨-, r⟩ | ⟨sl, p, -, -, -, r⟩ <;> rw [r]
  · exact ⟨fun _ _ => rfl, ⟨rfl, rfl, rfl⟩, rfl, rfl, rfl⟩
  · split
    · exact ⟨fun _ ne => State.slot?_setSlot_of_ne ne.symm _, ⟨rfl, rfl, rfl⟩, rfl, rfl, rfl⟩
    · exact ⟨fun _ ne => State.slot?_setSlot_of_ne ne.symm _, ⟨rfl, rfl, rfl⟩, rfl, rfl, rfl⟩

/-- The pins after a successful CONFIGURE (R74): its own is driven low and logs one low interval, no other moves. -/
theorem State.configureWith_pins_of_allocated (hs : s.slot? h = some sl) (hn : n ≠ 0) :
    (s.configureWith (some p) true h pin n br).levelOf p = some .low ∧
      (∃ d k, (s.configureWith (some p) true h pin n br).waveOf p = s.waveOf p ++ [⟨.low, .idle, d, k⟩]) ∧
      ∀ q, q ≠ p → (s.configureWith (some p) true h pin n br).levelOf q = s.levelOf q ∧
        (s.configureWith (some p) true h pin n br).waveOf q = s.waveOf q := by
  rw [State.configureWith_of_allocated pin br hs hn]
  exact ⟨State.levelOf_drive_self .., ⟨_, _, State.waveOf_emit_self ..⟩,
    fun q ne => ⟨State.levelOf_drive_of_ne ne.symm .., State.waveOf_emit_of_ne ne.symm ..⟩⟩

end Configure

/-- Settles O12: a rejection returns false; past the checks the frame is common to both answers of the allocator, and
each leaves its own slot and pins. -/
theorem configureFollowsRule : Obligations.ConfigureFollowsRule := by
  unfold Obligations.ConfigureFollowsRule
  intro h pin n br s
  refine ⟨s.configureWith (Config.resolve pin) (Config.allocOk s.draws n) h pin n br, rfl, ?_⟩
  split
  next rejected => exact State.configureWith_of_rejected pin br _ rejected
  next passed =>
    obtain ⟨present, hn, resolves⟩ : h.toNat < 4 ∧ n ≠ 0 ∧ Config.resolve pin ≠ none := by
      simpa only [not_or, not_le] using passed
    obtain ⟨sl, hs⟩ := Option.isSome_iff_exists.1 ((s.slot?_isSome_iff h).2 present)
    obtain ⟨p, hp⟩ := Option.ne_none_iff_exists'.1 resolves
    obtain ⟨others, marks, tick, anim, engine⟩ :=
      s.configureWith_frame pin br (Config.resolve pin) (Config.allocOk s.draws n) h n
    refine ⟨sl, p, hs, hp, others, marks, tick, anim, engine, ?_⟩
    rw [hp]
    split
    next allocated =>
      rw [allocated]
      obtain ⟨low, logged, unmoved⟩ := State.configureWith_pins_of_allocated (p := p) pin br hs hn
      refine ⟨?_, low, logged, unmoved, ?_⟩
      · rw [State.slot?_configureWith_of_allocated pin br hs hn, Slot.configured_released]
      · rw [State.configureWith_of_allocated pin br hs hn, State.returns_result]
    next failed =>
      rw [Bool.not_eq_true] at failed
      rw [failed]
      refine ⟨State.slot?_configureWith_of_not_allocated pin br hs hn, ?_⟩
      rw [State.configureWith_of_not_allocated pin br hs hn]
      exact ⟨rfl, rfl, rfl⟩

/-- Settles O13: a successful CONFIGURE leaves a channel of the given count, which GET_LED_COUNT reads. -/
theorem configurationLaw : Obligations.ConfigurationLaw := by
  unfold Obligations.ConfigurationLaw
  refine fun h pin n br s => ⟨rfl, ?_⟩
  rintro p t lt hn rfl
  obtain ⟨sl, hs⟩ := Option.isSome_iff_exists.1 ((s.slot?_isSome_iff h).2 lt)
  have channel : (s.configureWith (some p) true h pin n br).channel? h = some (sl.released.configured pin p n br) :=
    State.channel?_eq_some.2 ⟨State.slot?_configureWith_of_allocated pin br hs hn, rfl⟩
  constructor
  · rw [State.configureWith_of_allocated pin br hs hn, State.returns_result]
  · rw [exec_getLedCount_of_channel? channel, BitVec.ofNat_toNat]
    rfl

/-- Settles O14: a failed allocation leaves the slot inert, a success gives it a generation above every earlier one. -/
theorem reconfigurationMakesReferencesStale : Obligations.ReconfigurationMakesReferencesStale := by
  unfold Obligations.ReconfigurationMakesReferencesStale
  rintro h pin n br s sl p alloc ref hs hn rfl earlier
  refine State.live?_eq_none.2 fun u hu act gen => ?_
  cases alloc with
  | true =>
    cases (State.slot?_configureWith_of_allocated pin br hs hn).symm.trans hu
    have newer : sl.released.gen + 1 = ref.gen := gen
    have := sl.gen_le_released
    omega
  | false =>
    cases (State.slot?_configureWith_of_not_allocated pin br hs hn).symm.trans hu
    simp [Slot.released_active] at act

end Sys2Proof.Machine
end

section
/-! PROOFS. The statements of 41_fill_ops.md on the fills: what a fill writes and sends (R85, R91), the four solid fills
(R86 to R89) and LED_FILL (R90). -/

namespace Sys2Proof.Machine

/-! ### What a fill writes and sends -/

section Fill

variable {s : State} {h : Handle} {sl : Slot} (hs : s.channel? h = some sl) (sends : Bool) (c : Pixel)
include hs

/-- A fill writes the channel's slot and no other, whether or not it sends (R85). -/
theorem State.fillWith_slots : (s.fillWith sends h c).slots = (s.setSlot h (sl.filled c)).slots := by
  rw [State.fillWith_of_channel hs]
  cases sends with
  | true => rw [if_pos rfl, State.returns_slots, State.sendAll_slots]
  | false => rfl

theorem State.slot?_fillWith_self : (s.fillWith sends h c).slot? h = some (sl.filled c) := by
  rw [State.slot?, State.fillWith_slots hs]
  exact State.slot?_setSlot_self (State.lt_of_channel? hs) _

theorem State.slot?_fillWith_of_ne {k : Handle} (ne : h ≠ k) : (s.fillWith sends h c).slot? k = s.slot? k := by
  rw [State.slot?, State.fillWith_slots hs]
  exact State.slot?_setSlot_of_ne ne _

/-- A fill leaves the marks, the queue and the host's state alone, whether or not it sends (R85). -/
theorem State.fillWith_frame : keepsMarks s (s.fillWith sends h c) ∧ (s.fillWith sends h c).tick = s.tick ∧
    (s.fillWith sends h c).anim = s.anim ∧ (s.fillWith sends h c).result = .nothing := by
  rw [State.fillWith_of_channel hs]
  cases sends with
  | true => simp [keepsMarks]
  | false => simp [keepsMarks]

/-- A fill that sends ends in the SEND_ALL of the state it has written, whose pins and logs are still the old ones. -/
theorem sentAll_fillWith : sentAll s (s.fillWith true h c) := by
  rw [State.fillWith_of_channel hs, if_pos rfl]
  exact sentAll_congr (State.setSlot_level ..).symm (State.setSlot_wave ..).symm (State.returns_level ..)
    (State.returns_wave ..) (State.returns_slots ..) (sentAll_sendAll (s.setSlot h (sl.filled c)))

end Fill

/-- Settles O21: both readings of FILL_SENDS write the same slots and keep the same fields; they differ in the pins, which
move by a SEND_ALL or not at all. -/
theorem fillWritesBufferAndSends : Obligations.FillWritesBufferAndSends := by
  unfold Obligations.FillWritesBufferAndSends
  refine fun sends h c s => ⟨fun invalid => State.fillWith_of_none invalid sends c, fun sl hs => ?_⟩
  obtain ⟨marks, tick, anim, result⟩ := State.fillWith_frame hs sends c
  refine ⟨s.fillWith sends h c, rfl, State.slot?_fillWith_self hs sends c,
    fun k ne => State.slot?_fillWith_of_ne hs sends c ne.symm, marks, tick, anim, result, ?_⟩
  cases sends with
  | true =>
    refine ⟨sentAll_fillWith hs c, ?_⟩
    rw [State.fillWith_of_channel hs, if_pos rfl, State.returns_engine, State.sendAll_engine]
  | false =>
    rw [State.fillWith_of_channel hs]
    exact ⟨rfl, rfl, rfl⟩

/-! ### The fill commands -/

/-- The fill of the commands sends (R6). -/
theorem State.fill_eq_fillWith_true (s : State) (h : Handle) (c : Pixel) : s.fill h c = s.fillWith true h c := rfl

/-- Settles O22: each command is the fill in its colour, and the fill sends. -/
theorem solidFillsAreFills : Obligations.SolidFillsAreFills := by
  unfold Obligations.SolidFillsAreFills
  intro h s
  simp only [exec, execLedOff, execLedRed, execLedGreen, execLedBlue, State.fill_eq_fillWith_true, and_self]

/-- Settles O23: the colour is the one of the three clamped components (R61). -/
theorem ledFillClampsEachComponent : Obligations.LedFillClampsEachComponent := by
  unfold Obligations.LedFillClampsEachComponent
  intro h r g b s
  refine ⟨⟨clamp8 r, clamp8 g, clamp8 b⟩, ?_, clamp8_toNat r, clamp8_toNat g, clamp8_toNat b⟩
  rw [exec, execLedFill, State.fill_eq_fillWith_true]

end Sys2Proof.Machine
end

section
/-! PROOFS. The statements of 42_transmit_ops.md on the encoder (R93 to R95): the scaling of a component and the wire
bytes of a channel. -/

namespace Sys2Proof

/-! ### The scaling -/

/-- The scaling is the exact quotient rounded down (R94). -/
theorem Config.mapFn_eq_floor (v m : Nat) : (Config.mapFn v m : ℤ) = ⌊(v * m : ℚ) / 255⌋ := by
  have e := Rat.floor_natCast_div_natCast (v * m) 255
  push_cast at e
  rw [e, Config.mapFn]
  rfl

theorem Config.mapFn_le {v : Nat} (hv : v ≤ 255) (m : Nat) : Config.mapFn v m ≤ m :=
  Nat.div_le_of_le_mul (Nat.mul_le_mul_right m hv)

/-- Settles O26: the end points, the ceiling and the order are those of a division of naturals, and rounding down errs by
less than 1. -/
theorem scalingMeetsRule : Obligations.ScalingMeetsRule := by
  unfold Obligations.ScalingMeetsRule
  intro v m hv _
  have floor := Config.mapFn_eq_floor v m
  refine ⟨by simp [Config.mapFn], Nat.mul_div_cancel_left m (by decide), Config.mapFn_le hv m,
    fun u hu => Nat.div_le_div_right (Nat.mul_le_mul_right m hu), ?_, floor⟩
  have e : (Config.mapFn v m : ℚ) = (⌊(v * m : ℚ) / 255⌋ : ℤ) := by exact_mod_cast floor
  rw [e, abs_sub_lt_iff]
  have le := Int.floor_le ((v * m : ℚ) / 255)
  have lt := Int.lt_floor_add_one ((v * m : ℚ) / 255)
  constructor
  · linarith
  · linarith

end Sys2Proof

namespace Sys2Proof.Machine

/-! ### The wire bytes -/

/-- A ceiling fits a byte: it is at most the brightness (R93). -/
theorem adjMaxWith_le (gbOffset : Nat) (br : Byte) (k : WireSlot) : adjMaxWith gbOffset br k ≤ br.toNat := by
  cases k <;> simp [adjMaxWith]

/-- A wire byte is the scaled component: the scaling never wraps, since it stays under its ceiling (R94, R95). -/
theorem Slot.wireByte_toNat {sl : Slot} {i : Nat} {px : Pixel} (hpx : sl.pixels[i]? = some px) (k : WireSlot) :
    (sl.wireByte i k).toNat = (wireComponent px k).toNat * adjMaxWith Config.gbOffset sl.brightness k / 255 := by
  have le : Config.mapFn (wireComponent px k).toNat (adjMaxWith Config.gbOffset sl.brightness k) ≤ sl.brightness.toNat :=
    (Config.mapFn_le (Nat.le_of_lt_succ (wireComponent px k).isLt) _).trans (adjMaxWith_le _ _ k)
  have px' : sl.pixels.getD i Pixel.black = px := by simp [hpx]
  rw [Slot.wireByte, Slot.wireByteWith, px', BitVec.toNat_ofNat]
  exact Nat.mod_eq_of_lt (le.trans_lt sl.brightness.isLt)

/-- The wire bytes of pixel `i`, in wire order (R65). -/
def Slot.pixelBytes (sl : Slot) (i : Nat) : List Byte := [sl.wireByte i .green, sl.wireByte i .red, sl.wireByte i .blue]

theorem Slot.wireBytes_eq (sl : Slot) : sl.wireBytes = (List.range sl.pixelCount.toNat).flatMap sl.pixelBytes := rfl

theorem Slot.flatMap_pixelBytes_length (sl : Slot) (is : List Nat) : (is.flatMap sl.pixelBytes).length = 3 * is.length := by
  simp [List.length_flatMap, Slot.pixelBytes, mul_comm]

@[simp] theorem Slot.wireBytes_length (sl : Slot) : sl.wireBytes.length = 3 * sl.pixelCount.toNat := by
  rw [Slot.wireBytes_eq, Slot.flatMap_pixelBytes_length, List.length_range]

/-- The bytes of pixel `i` come after those of the `i` pixels before it (R95). -/
theorem Slot.wireBytes_split {sl : Slot} {i : Nat} (lt : i < sl.pixelCount.toNat) :
    ∃ before after, sl.wireBytes = before ++ (sl.pixelBytes i ++ after) ∧ before.length = 3 * i := by
  obtain ⟨m, hm⟩ := Nat.exists_eq_add_of_lt lt
  refine ⟨(List.range i).flatMap sl.pixelBytes, (List.range' (i + 1) m).flatMap sl.pixelBytes, ?_, ?_⟩
  · have split : List.range sl.pixelCount.toNat = List.range i ++ i :: List.range' (i + 1) m := by
      have parts := List.range'_append_1 (s := 0) (m := i) (n := m + 1)
      rw [hm, List.range_eq_range', List.range_eq_range', ← List.range'_succ, Nat.add_assoc, ← parts, Nat.zero_add]
    rw [Slot.wireBytes_eq, split, List.flatMap_append, List.flatMap_cons]
  · rw [Slot.flatMap_pixelBytes_length, List.length_range]

/-- Byte `j` of pixel `i` stands at `3 * i + j` (R95). -/
theorem Slot.wireBytes_getElem? {sl : Slot} {i j : Nat} (lt : i < sl.pixelCount.toNat) (hj : j < 3) :
    sl.wireBytes[3 * i + j]? = (sl.pixelBytes i)[j]? := by
  obtain ⟨before, after, split, len⟩ := Slot.wireBytes_split lt
  rw [split, ← len, List.getElem?_append_right (Nat.le_add_right _ _), Nat.add_sub_cancel_left]
  exact List.getElem?_append_left hj

/-- Settles O27: the bytes of a pixel stand one after another, each the scaled component, and the truncated subtraction of
the ceiling is a subtraction kept from falling below 0. -/
theorem wireBytesAreScaledComponents : Obligations.WireBytesAreScaledComponents := by
  unfold Obligations.WireBytesAreScaledComponents
  intro sl i px lt hpx
  have ceiling : max ((sl.brightness.toNat : Int) - 100) 0 = (sl.brightness.toNat - Config.gbOffset : Nat) := by
    simp only [Config.gbOffset]
    omega
  refine ⟨sl.wireBytes_length, sl.wireByte i .green, sl.wireByte i .red, sl.wireByte i .blue,
    Slot.wireBytes_getElem? (j := 0) lt (by decide), Slot.wireBytes_getElem? (j := 1) lt (by decide),
    Slot.wireBytes_getElem? (j := 2) lt (by decide), ?_, ?_, ?_⟩
  · rw [Slot.wireByte_toNat hpx, ceiling]
    rfl
  · rw [Slot.wireByte_toNat hpx]
    rfl
  · rw [Slot.wireByte_toNat hpx, ceiling]
    rfl

end Sys2Proof.Machine
end

section
/-! PROOFS. The statements of 42_transmit_ops.md on the transmission commands: what ENCODE_AND_SEND (R102) and SEND_ALL
(R104) append to the logs. -/

namespace Sys2Proof.Machine

/-- ENCODE_AND_SEND of an invalid handle returns and does nothing else (R102). -/
theorem exec_encodeAndSend_of_none {s : State} {h : Handle} (hs : s.channel? h = none) :
    exec (.encodeAndSend h) s = .next (s.returns .nothing) := by
  simp only [exec, execEncodeAndSend, State.sendHandle, hs]

/-- ENCODE_AND_SEND of a valid handle transmits the channel's frame on its pin (R102). -/
theorem exec_encodeAndSend_of_channel? {s : State} {h : Handle} {sl : Slot} (hs : s.channel? h = some sl) :
    exec (.encodeAndSend h) s = .next ((s.transmit sl.portBit sl.frame).returns .nothing) := by
  rw [exec, execEncodeAndSend, State.sendHandle_of_channel? hs, State.sendChannel_eq_transmit]

section Transmit

variable (s : State) (p : Pin) (shapes : List (Level × SegClass))

theorem State.waveOf_transmit_self : (s.transmit p shapes).waveOf p = s.waveOf p ++ segments s.draws shapes := by
  simp [State.transmit, State.waveOf]

theorem State.waveOf_transmit_of_ne {q : Pin} (ne : q ≠ p) : (s.transmit p shapes).waveOf q = s.waveOf q := by
  simp [State.transmit, State.waveOf, PinMap.get_set_of_ne ne.symm]

theorem State.levelOf_transmit_self : (s.transmit p shapes).levelOf p = some .low := by
  simp [State.transmit, State.levelOf]

theorem State.levelOf_transmit_of_ne {q : Pin} (ne : q ≠ p) : (s.transmit p shapes).levelOf q = s.levelOf q := by
  simp [State.transmit, State.levelOf, PinMap.get_set_of_ne ne.symm]

end Transmit

/-- Settles O28: a valid handle's command is one transmission of its frame, which moves one pin; an invalid handle's only
returns. -/
theorem encodeAndSendAppendsFrame : Obligations.EncodeAndSendAppendsFrame := by
  unfold Obligations.EncodeAndSendAppendsFrame
  refine fun h s => ⟨fun invalid => exec_encodeAndSend_of_none invalid, fun sl hs => ?_⟩
  exact ⟨_, segments s.draws sl.frame, exec_encodeAndSend_of_channel? hs, s.waveOf_transmit_self sl.portBit sl.frame,
    segments_map_shape _ _, by rw [segments_length, Slot.frame_length], s.levelOf_transmit_self sl.portBit sl.frame,
    fun q ne => ⟨s.waveOf_transmit_of_ne sl.portBit sl.frame ne, s.levelOf_transmit_of_ne sl.portBit sl.frame ne⟩, rfl⟩

/-- A command that writes only the pins, their logs, the engine and the draws, and then returns, writes the result
besides. -/
theorem State.returns_eq_of_pins {s u : State}
    (e : u = { s with level := u.level, wave := u.wave, engine := .idle, draws := u.draws }) (r : Result) :
    u.returns r = { s with
      level := (u.returns r).level, wave := (u.returns r).wave, engine := .idle, draws := (u.returns r).draws
      result := r } :=
  congrArg (State.returns r) e

/-- Settles O29: SEND_ALL is the shared operation of that name and returns nothing. -/
theorem sendAllSendsActiveChannelsInOrder : Obligations.SendAllSendsActiveChannelsInOrder := by
  unfold Obligations.SendAllSendsActiveChannelsInOrder
  refine fun s => ⟨s.sendAll.returns .nothing, rfl, ?_, fun p used => ?_, fun p unused => ?_, ?_⟩
  · simpa only [State.waveOf_returns] using s.waveOf_sendAll_eq
  · rw [State.levelOf_returns, State.levelOf_sendAll_of_inUse used]
  · rw [State.levelOf_returns, State.levelOf_sendAll_of_not_inUse unused]
  · exact State.returns_eq_of_pins s.sendAll_eq .nothing

end Sys2Proof.Machine
end

section
/-! PROOFS. R109: a receiver reads a channel's wire bytes from its frame, whatever the real durations, as long as they
meet the timing premise of R163. -/

namespace Sys2Proof.Machine

/-! ### Bytes and bits -/

/-- The bits of a wire byte, most significant first (R66). -/
def byteBits (w : Byte) : List Bool := bitOrder.map fun j => w.getLsbD j

theorem flatMap_byteBits_length (ws : List Byte) : (ws.flatMap byteBits).length = 8 * ws.length := by
  simp [List.length_flatMap, byteBits, bitOrder, mul_comm]

/-- The symbols of a wire byte are those of its bits (R66, R67). -/
theorem symbols_eq_flatMap_byteBits (w : Byte) : symbols w = (byteBits w).flatMap symbol := by
  simp [symbols, byteBits, bitOrder, List.append_assoc]

/-- Eight bits, most significant first, are read as the byte they are the bits of (R109). -/
theorem bytesOfBits_byteBits_append (w : Byte) (rest : List Bool) :
    bytesOfBits (byteBits w ++ rest) = w :: bytesOfBits rest := by
  have single : ∀ w : Byte, bytesOfBits (byteBits w) = [w] := by decide
  have first : bytesOfBits (byteBits w ++ rest) = bytesOfBits (byteBits w) ++ bytesOfBits rest := rfl
  rw [first, single, List.singleton_append]

/-- Grouping the bits of bytes by eight gives the bytes back (R109). -/
theorem bytesOfBits_flatMap_byteBits (ws : List Byte) : bytesOfBits (ws.flatMap byteBits) = ws := by
  induction ws with
  | nil => rfl
  | cons w ws ih => rw [List.flatMap_cons, bytesOfBits_byteBits_append, ih]

/-- A frame is the symbols of its bytes' bits, then the latch (R70). -/
theorem Slot.frame_eq_flatMap_symbol (sl : Slot) :
    sl.frame = (sl.wireBytes.flatMap byteBits).flatMap symbol ++ [(.low, .latch)] := by
  simp only [Slot.frame, List.flatMap_assoc, ← symbols_eq_flatMap_byteBits]

/-! ### The receiver, segment by segment -/

section Receiver

variable {T : Timing} {g : Segment}

theorem readBits_low {low : Time} {bits : List Bool} {gs : List Segment} (hg : g.level = .low) :
    readBits T low bits (g :: gs) = readBits T (low + g.d) bits gs := by
  rw [readBits, hg]

/-- A high segment after too short a low line goes on with the frame (R109). -/
theorem readBits_high {low : Time} {bits : List Bool} {gs : List Segment} (hg : g.level = .high) (lt : low < T.tResetMin) :
    readBits T low bits (g :: gs) = readBits T 0 (bits ++ [g.cls == .long]) gs := by
  rw [readBits, hg]
  exact if_neg fun e => lt.not_ge e.1

/-- In time, the low segment of a symbol ends no frame (R163). -/
theorem segmentInTime.low_lt {bit : Bool} (h : segmentInTime T g) (shape : g.shape = (.low, symbolClass bit .low)) :
    g.d < T.tResetMin := by
  obtain ⟨level, cls⟩ := Prod.mk.inj shape
  cases bit <;> simpa [segmentInTime, level, cls, symbolClass] using h

/-- In time, a latch ends its frame (R163). -/
theorem segmentInTime.latch_ge (h : segmentInTime T g) (shape : g.shape = (.low, .latch)) : T.tResetMin ≤ g.d := by
  obtain ⟨level, cls⟩ := Prod.mk.inj shape
  simpa [segmentInTime, level, cls] using h

/-- The bit of a symbol is read off the class of its high segment (R67, R109). -/
theorem symbolClass_high_beq_long (bit : Bool) : (symbolClass bit .high == .long) = bit := by cases bit <;> rfl

/-- What the receiver reads of the symbols of some bits and a latch, with earlier bits of the frame in hand: all of them
as one frame. The low line before each symbol is shorter than the threshold, and the latch is not. -/
theorem readBits_symbols_latch (bs : List Bool) {low : Time} {bits : List Bool} {segs : List Segment}
    (shape : segs.map Segment.shape = bs.flatMap symbol ++ [(.low, .latch)])
    (ok : ∀ g ∈ segs, 0 ≤ g.d ∧ segmentInTime T g) (nonneg : 0 ≤ low) (lt : low < T.tResetMin) (ne : bits ++ bs ≠ []) :
    readBits T low bits segs = [bits ++ bs] := by
  induction bs generalizing low bits segs with
  | nil =>
    obtain ⟨g, rfl, hg⟩ := List.map_eq_singleton_iff.1 shape
    have long := (ok g List.mem_cons_self).2.latch_ge hg
    rw [readBits_low (Prod.mk.inj hg).1, readBits, List.append_nil]
    exact if_pos ⟨by linarith, by simpa using ne⟩
  | cons b bs ih =>
    rw [List.flatMap_cons, symbol_eq] at shape
    obtain ⟨high, segs, rfl, hh, shape⟩ := List.map_eq_cons_iff.1 shape
    obtain ⟨low', segs, rfl, hl, shape⟩ := List.map_eq_cons_iff.1 shape
    obtain ⟨hlevel, hcls⟩ := Prod.mk.inj hh
    obtain ⟨-, ok⟩ := List.forall_mem_cons.1 ok
    obtain ⟨okl, ok⟩ := List.forall_mem_cons.1 ok
    rw [readBits_high hlevel lt, readBits_low (Prod.mk.inj hl).1, hcls, symbolClass_high_beq_long, zero_add,
      ih shape ok okl.1 (okl.2.low_lt hl) (by simp), List.append_assoc, List.singleton_append]

end Receiver

/-- The receiver reads a frame whose durations are in time as the bytes it was made of (R109). -/
theorem readFrames_frame {T : Timing} {sl : Slot} (pos : 1 ≤ sl.pixelCount.toNat) {segs : List Segment}
    (shape : segs.map Segment.shape = sl.frame) (ok : ∀ g ∈ segs, 0 ≤ g.d ∧ segmentInTime T g) :
    readFrames T segs = [sl.wireBytes] := by
  have ne : sl.wireBytes.flatMap byteBits ≠ [] := by
    rw [← List.length_pos_iff, flatMap_byteBits_length, Slot.wireBytes_length]
    omega
  rw [sl.frame_eq_flatMap_symbol] at shape
  rw [readFrames, readBits_symbols_latch _ shape ok le_rfl T.reset_pos ne, List.nil_append, List.map_singleton,
    bytesOfBits_flatMap_byteBits]

/-- Settles O31: what the command appends has the frame's shape, and the receiver reads a frame in time as its bytes; an
active channel of a well-formed memory has a pixel, so there is a frame to read. -/
theorem receiverReadsWireBytes : Obligations.ReceiverReadsWireBytes := by
  unfold Obligations.ReceiverReadsWireBytes
  intro h s sl wf hs
  obtain ⟨t, new, done, wave, frame, -⟩ := (encodeAndSendAppendsFrame h s).2 sl hs
  have bufferOk := Memory.bufferOk_of_slot? wf (State.slot?_of_channel? hs)
  obtain ⟨pos, -⟩ := Slot.bufferOk_active bufferOk (State.active_of_channel? hs)
  refine ⟨t, new, done, wave, fun T stall segs shape nonneg inTime => ?_⟩
  exact readFrames_frame pos (shape.trans frame) fun g hg => ⟨nonneg g hg, (inTime g hg).2⟩

end Sys2Proof.Machine
end

section
/-! PROOFS. R110: the nominal length of a frame. -/

namespace Sys2Proof.Machine

section NominalLength

variable (T : Timing)

theorem nominalLength_append (xs ys : List (Level × SegClass)) :
    nominalLength T (xs ++ ys) = nominalLength T xs + nominalLength T ys := by
  rw [nominalLength, List.map_append, List.sum_append, nominalLength, nominalLength]

/-- The symbol of either bit takes one bit period (R68). -/
theorem nominalLength_symbol (bit : Bool) : nominalLength T (symbol bit) = T.tBit := by
  obtain ⟨one, zero, -⟩ := symbolPeriodIsConstant T
  cases bit with
  | true => exact one
  | false => exact zero

/-- Symbols take one bit period a bit (R68). -/
theorem nominalLength_flatMap_symbol (bs : List Bool) : nominalLength T (bs.flatMap symbol) = bs.length * T.tBit := by
  induction bs with
  | nil => simp [nominalLength]
  | cons b bs ih =>
    rw [List.flatMap_cons, nominalLength_append, nominalLength_symbol, ih, List.length_cons]
    push_cast
    ring

end NominalLength

/-- Settles O37: a frame is 24 symbols a pixel, of one bit period each, and the latch. -/
theorem frameNominalLength : Obligations.FrameNominalLength := by
  unfold Obligations.FrameNominalLength
  intro T sl
  have latch : nominalLength T [(.low, .latch)] = T.tLatch := by simp [nominalLength, SegClass.nominal]
  rw [sl.frame_eq_flatMap_symbol, nominalLength_append, nominalLength_flatMap_symbol, latch, flatMap_byteBits_length,
    Slot.wireBytes_length]
  push_cast
  ring

end Sys2Proof.Machine
end

section
/-! PROOFS. The statements of 46_host_scheduler.md on the common contract of the host agent's commands: TICK (R116), the due
test and the frame of a due effect (R117 to R121), the fault of a zero width (R126), and what an effect and a command of the
block leave of the host's state (R113, R115, R132). -/

namespace Sys2Proof.Machine

/-! ### TICK and the fault of a zero width -/

/-- Settles O38: a tick is a sum of words, which is a sum modulo 2^32. -/
theorem tickAdvancesByOne : Obligations.TickAdvancesByOne := by
  unfold Obligations.TickAdvancesByOne
  intro s
  have sum : s.tick + 1 = .ofNat 32 ((s.tick.toNat + 1) % 2 ^ 32) := BitVec.eq_of_toNat_eq (by simp)
  rw [← sum]
  rfl

/-- Settles O45: RAINBOWS looks at the width as soon as its handle is valid, before the due test. -/
theorem rainbowsZeroWidthFaults : Obligations.RainbowsZeroWidthFaults := by
  unfold Obligations.RainbowsZeroWidthFaults
  intro h speed s sl hs
  have faults : s.valid h = true ∧ (0 : Half) = 0 := ⟨State.valid_iff.2 ⟨sl, hs⟩, rfl⟩
  rw [exec, execRainbows, if_pos faults, State.raiseFault]

/-! ### An effect on a valid handle, due or not -/

section Contract

variable {E : Effect} {h : Handle} {x : EffectArgs} {speed : Word} {s : State} {sl : Slot} (runs : effectRuns x E)
  (hs : s.channel? h = some sl)
include runs hs

/-- An effect that is not due only returns (step 3 of R118). -/
theorem exec_effectInstr_of_not_due (early : (s.tick - (s.animOf h E).last).toNat < speed.toNat) :
    exec (effectInstr h x speed E) s = .next (s.returns .nothing) := by
  have notDue : s.due h E speed = false := by simpa [State.due] using early
  simp [exec_effectInstr runs, State.runEffect, hs, notDue]

/-- A due effect does one frame and returns (step 4 of R118). -/
theorem exec_effectInstr_eq_animate (due : speed.toNat ≤ (s.tick - (s.animOf h E).last).toNat) :
    exec (effectInstr h x speed E) s = .next ((s.animate E h (E.frame x) E.advance sl).returns .nothing) := by
  simp [exec_effectInstr runs, State.runEffect, hs, State.due_iff.2 due]

end Contract

/-- Settles O39: the common contract returns before it writes (step 3 of R118). -/
theorem notDueEffectDoesNothing : Obligations.NotDueEffectDoesNothing := by
  unfold Obligations.NotDueEffectDoesNothing
  intro E h x speed s sl runs hs early
  exact exec_effectInstr_of_not_due runs hs early

/-! ### What a due frame leaves -/

section Frame

variable (E : Effect) (h : Handle) (frame : Slot → Int → Buffer) (advance : Nat → AnimRec → AnimRec) (sl : Slot) (s : State)

/-- A due frame sends from pins and logs that are still the old ones, and the advance after it touches no pin. -/
theorem sentAll_animate : sentAll s (s.animate E h frame advance sl) :=
  sentAll_congr rfl rfl (State.setAnim_level ..) (State.setAnim_wave ..) (State.setAnim_slots ..)
    (sentAll_sendAll (s.framed h E frame sl))

@[simp] theorem State.animate_faulted : (s.animate E h frame advance sl).faulted = s.faulted := by
  simp [State.animate_eq, State.framed]

@[simp] theorem State.animate_refused : (s.animate E h frame advance sl).refused = s.refused := by
  simp [State.animate_eq, State.framed]

@[simp] theorem State.animate_pending : (s.animate E h frame advance sl).pending = s.pending := by
  simp [State.animate_eq, State.framed]

@[simp] theorem State.animate_tick : (s.animate E h frame advance sl).tick = s.tick := by
  simp [State.animate_eq, State.framed]

@[simp] theorem State.animate_engine : (s.animate E h frame advance sl).engine = .idle := by
  simp [State.animate_eq]

/-- A due frame leaves in a slot what the writing of the channel's pixels does. -/
theorem State.slot?_animate (k : Handle) : (s.animate E h frame advance sl).slot? k =
    (s.setSlot h (sl.withPixels (frame sl (s.animOf h E).cursor))).slot? k :=
  congrArg (·[k.toNat]?) State.animate_slots

end Frame

/-- Settles O40: every field of the state after a due frame, read through the operations the frame is made of. -/
theorem dueEffectFollowsContract : Obligations.DueEffectFollowsContract := by
  unfold Obligations.DueEffectFollowsContract
  intro E h x speed s sl runs hs due
  have lt := State.lt_of_channel? hs
  refine ⟨_, sl.withPixels (E.frame x sl (s.animOf h E).cursor), exec_effectInstr_eq_animate runs hs due, ?slot, rfl,
    fun k ne => ?slots, ?last, fun k F ne => ?records, ?pins, ?engine, ?tick, ?marks, State.returns_result ..⟩
  case slot => rw [State.slot?_returns, State.slot?_animate, State.slot?_setSlot_self lt]
  case slots => rw [State.slot?_returns, State.slot?_animate, State.slot?_setSlot_of_ne ne.symm]
  case last => rw [State.animOf_returns, State.animate_animOf_self lt, Effect.advance_last]
  case records => rw [State.animOf_returns, State.animate_animOf_of_ne (ne.imp Ne.symm Ne.symm)]
  case pins =>
    exact sentAll_congr rfl rfl (State.returns_level ..) (State.returns_wave ..) (State.returns_slots ..)
      (sentAll_animate E h (E.frame x) E.advance sl s)
  case engine => rw [State.returns_engine, State.animate_engine]
  case tick => rw [State.returns_tick, State.animate_tick]
  case marks => simp [keepsMarks]

/-! ### A second call -/

/-- Fewer than 2^32 ticks after a moment, the ticks since then are their number (R117). -/
theorem ticks_since {k : Nat} (lt : k < 2 ^ 32) (last : Word) : (last + .ofNat 32 k - last).toNat = k := by
  rw [add_sub_cancel_left, BitVec.toNat_ofNat, Nat.mod_eq_of_lt lt]

/-- Settles O41: the first call has stamped the record, so that the second finds it `k` ticks old. -/
theorem secondCallTooSoonDoesNothing : Obligations.SecondCallTooSoonDoesNothing := by
  unfold Obligations.SecondCallTooSoonDoesNothing
  intro E h x speed s sl k runs hs due soon
  obtain ⟨t, done, chan, -, record, tick⟩ := exec_effectInstr_of_due runs hs due
  have result : t.result = .nothing := by
    cases done.symm.trans (exec_effectInstr_eq_animate runs hs due)
    rfl
  have last : (t.animOf h E).last = t.tick := by rw [record, Effect.advance_last, tick]
  refine ⟨t, done, (exec_effectInstr_of_not_due (s := { t with tick := t.tick + .ofNat 32 k }) runs chan ?_).trans ?_⟩
  · change (t.tick + .ofNat 32 k - (t.animOf h E).last).toNat < speed.toNat
    rwa [last, ticks_since (soon.trans speed.isLt)]
  · simp only [State.returns, ← result]

/-! ### What a command leaves of the host's state -/

/-- Settles O52: a command that faults or does nothing keeps every record, and a due frame writes the one. -/
theorem effectsAreIndependent : Obligations.EffectsAreIndependent := by
  unfold Obligations.EffectsAreIndependent
  intro E F h k x speed s t e ne
  rcases exec_effectInstr_cases h x speed E s with ⟨-, r⟩ | r <;> cases r.symm.trans e
  · exact State.animOf_raiseFault ..
  · rcases s.runEffect_cases E h speed (E.frame x) E.advance with ⟨-, r⟩ | ⟨sl, -, ⟨-, r⟩ | ⟨-, r⟩⟩ <;>
      rw [r, State.animOf_returns]
    exact State.animate_animOf_of_ne (ne.imp Ne.symm Ne.symm)

theorem isHostCommand_effectInstr (h : Handle) (x : EffectArgs) (speed : Word) (E : Effect) :
    isHostCommand (effectInstr h x speed E) = true := by
  cases E <;> rfl

/-- Settles O59: of all a command can do, only a tick and a due frame write the host's state. -/
theorem blockCommandsLeaveHostState : Obligations.BlockCommandsLeaveHostState := by
  unfold Obligations.BlockCommandsLeaveHostState
  intro i s t block e
  cases exec_did e with
  | returned _ _ | faulted _ | released _ _ _ _ _ _ _ _ _ _ | configured _ _ _ _ _ _ _ _ _ _ | wrote _ _ _ _ _ _ _ =>
    exact ⟨rfl, rfl⟩
  | filled _ _ _ _ _ _ | sentAll _ => simp
  | sent _ _ _ _ =>
    rw [State.sendChannel_eq]
    exact ⟨rfl, rfl⟩
  | animated h x speed E _ hi _ =>
    rw [hi, isHostCommand_effectInstr] at block
    cases block
  | ticked hi =>
    rw [hi] at block
    cases block

end Sys2Proof.Machine
end

section
/-! PROOFS. The statements of 46_host_scheduler.md on the frames of the seven effects and the advances of their cursors (R124
to R128, R130, R131). -/

namespace Sys2Proof.Machine

/-! ### Frames of pixels -/

theorem frameOf_getElem? {n i : Nat} (lt : i < n) (px : Nat → Pixel) : (frameOf n px)[i]? = some (px i) := by
  simp [frameOf, lt]

theorem mem_frameOf {n : Nat} {px : Nat → Pixel} {p : Pixel} (hp : p ∈ frameOf n px) : ∃ i, px i = p := by
  obtain ⟨i, -, e⟩ := List.mem_map.1 hp
  exact ⟨i, e⟩

@[simp] theorem Slot.pixels_withPixels (sl : Slot) (b : Buffer) : (sl.withPixels b).pixels = b := rfl

/-- A wheel cycle over a span, with the division of R125 and R126 on integers. -/
theorem wheelAt_span (wheel : Byte → Pixel) (span i : Nat) (c : Int) :
    wheelAt wheel ((i * 256 / span : Nat) + c) = wheel (.ofInt 8 (((i : Int) * 256 / span + c) % 256)) := by
  rw [wheelAt]
  push_cast
  rfl

section Frame

variable {E : Effect} {h : Handle} {x : EffectArgs} {speed : Word} {s : State} {sl : Slot} (runs : effectRuns x E)
  (hs : s.channel? h = some sl) (due : speed.toNat ≤ (s.tick - (s.animOf h E).last).toNat)
include runs hs due

/-- What a due effect leaves of its channel and its record (R118). -/
theorem exists_frame_of_due {b : Buffer} (frame : E.frame x sl (s.animOf h E).cursor = b) :
    ∃ t u, exec (effectInstr h x speed E) s = .next t ∧ t.channel? h = some u ∧ u.pixels = b ∧
      t.animOf h E = E.advance sl.pixelCount.toNat { s.animOf h E with last := s.tick } := by
  obtain ⟨t, done, chan, -, record, -⟩ := exec_effectInstr_of_due runs hs due
  exact ⟨t, _, done, chan, frame, record⟩

/-- The same, pixel by pixel, for an effect whose frame is given so and whose cursor goes on by one modulo a period
(R124 to R127). -/
theorem exists_cyclic_frame_of_due {px : Nat → Pixel} {period : Int} (advance : E.advance = cycleCursor period)
    (frame : E.frame x sl (s.animOf h E).cursor = frameOf sl.pixelCount.toNat px) :
    ∃ t u, exec (effectInstr h x speed E) s = .next t ∧ t.channel? h = some u ∧ u.pixels.length = sl.pixelCount.toNat ∧
      (∀ i : Nat, i < sl.pixelCount.toNat → u.pixels[i]? = some (px i)) ∧
      (t.animOf h E).cursor = ((s.animOf h E).cursor + 1) % period := by
  obtain ⟨t, u, done, chan, pixels, record⟩ := exists_frame_of_due runs hs due frame
  refine ⟨t, u, done, chan, ?_, fun i lt => ?_, ?_⟩
  · rw [pixels, frameOf_length]
  · rw [pixels, frameOf_getElem? lt]
  · rw [record, advance]
    rfl

end Frame

/-! ### PULSE's colours -/

/-- On the cursors that PULSE reaches the scaled component is a byte (R130). -/
theorem pulseScale_toNat (v : Byte) {c : Int} (nonneg : 0 ≤ c) (le : c ≤ 255) :
    ((pulseScale v c).toNat : Int) = v.toNat * c / 255 := by
  obtain ⟨c, rfl⟩ := Int.eq_ofNat_of_zero_le nonneg
  have scaled : v.toNat * c / 255 < 256 := by
    have : v.toNat * c ≤ 255 * 255 := Nat.mul_le_mul (by omega) (by omega)
    omega
  have cast : (v.toNat : Int) * c / 255 = ((v.toNat * c / 255 : Nat) : Int) := by push_cast; rfl
  rw [pulseScale, cast, BitVec.ofInt_natCast, BitVec.toNat_ofNat, Nat.mod_eq_of_lt scaled]

theorem Dir.step_eq_ite (d : Dir) : d.step = if d = .up then 1 else -1 := by cases d <;> rfl

/-! ### COLOR_WIPE's pixel -/

/-- Where COLOR_WIPE's pixel stands on the strip, for a cursor that is not negative (R128). -/
theorem wipeCursor_eq_natCast (n : Nat) {c : Int} (nonneg : 0 ≤ c) :
    wipeCursor n c = ((if (n : Int) ≤ c then 0 else c.toNat : Nat) : Int) := by
  unfold wipeCursor
  split
  · rfl
  · exact (Int.toNat_of_nonneg nonneg).symm

/-- COLOR_WIPE at pixel `c` sets that pixel (R128). -/
theorem wipeFrame_eq_set {sl : Slot} {cursor : Int} {c : Nat} (atPixel : wipeCursor sl.pixelCount.toNat cursor = c)
    (color : Pixel) : wipeFrame color sl cursor = sl.pixels.set c color := by
  rw [wipeFrame, atPixel, Int.toNat_natCast]

/-- COLOR_WIPE at pixel `c` goes on to the next one, or to the start of the strip (R128). -/
theorem wipeAdvance_cursor {n c : Nat} {a : AnimRec} (atPixel : wipeCursor n a.cursor = c) :
    (wipeAdvance n a).cursor = if c + 1 = n then 0 else (c : Int) + 1 := by
  simp only [wipeAdvance, atPixel]
  norm_cast

/-- In well-formed memory a channel has as many pixels as its count, at least one (R19). -/
theorem Memory.pixels_of_channel? {s : State} (w : Memory.wf s = true) {h : Handle} {sl : Slot}
    (hs : s.channel? h = some sl) : 1 ≤ sl.pixelCount.toNat ∧ sl.pixels.length = sl.pixelCount.toNat :=
  Slot.bufferOk_active (Memory.bufferOk_of_slot? w (State.slot?_of_channel? hs)) (State.active_of_channel? hs)

/-! ### The seven effects

Three of the statements are named as the model's frame functions are, so all stand in a namespace of their own. -/

namespace HostScheduler

/-- Settles O42: the frame is the model's, pixel by pixel. -/
theorem rainbowFrame : Obligations.RainbowFrame := by
  unfold Obligations.RainbowFrame
  intro h speed s sl hs due
  exact exists_cyclic_frame_of_due (x := ⟨0, 0, 0, 0, 0⟩) (E := .rainbow) nofun hs due rfl rfl

/-- Settles O43: the span is the strip. -/
theorem rainbowCycleFrame : Obligations.RainbowCycleFrame := by
  unfold Obligations.RainbowCycleFrame
  intro h speed s sl hs due
  simp only [← wheelAt_span]
  exact exists_cyclic_frame_of_due (x := ⟨0, 0, 0, 0, 0⟩) (E := .rainbowCycle) nofun hs due rfl rfl

/-- Settles O44: the span is the width, and a width that is not zero is what RAINBOWS runs on. -/
theorem rainbowsFrame : Obligations.RainbowsFrame := by
  unfold Obligations.RainbowsFrame
  intro h width speed s sl ne hs due
  simp only [← wheelAt_span]
  exact exists_cyclic_frame_of_due (x := ⟨width, 0, 0, 0, 0⟩) (E := .rainbows) (fun _ => ne) hs due rfl rfl

/-- Settles O46: the frame is the model's, pixel by pixel. -/
theorem theaterChaseFrame : Obligations.TheaterChaseFrame := by
  unfold Obligations.TheaterChaseFrame
  intro h r g b speed s sl hs due
  exact exists_cyclic_frame_of_due (x := ⟨0, r, g, b, 0⟩) (E := .theaterChase) nofun hs due rfl rfl

/-- Settles O47: the form of the memory puts the pixel on the strip, and setting it changes no other. -/
theorem colorWipeFrame : Obligations.ColorWipeFrame := by
  unfold Obligations.ColorWipeFrame
  intro h r g b speed s sl c w hs due nonneg hc
  obtain ⟨pos, len⟩ := Memory.pixels_of_channel? w hs
  have lt : c < sl.pixels.length := by
    rw [hc, len]
    split <;> omega
  have atPixel : wipeCursor sl.pixelCount.toNat (s.animOf h .colorWipe).cursor = c := by
    rw [hc, wipeCursor_eq_natCast _ nonneg]
  obtain ⟨t, u, done, chan, pixels, record⟩ :=
    exists_frame_of_due (x := ⟨0, r, g, b, 0⟩) (E := .colorWipe) nofun hs due (wipeFrame_eq_set atPixel _)
  refine ⟨t, u, done, chan, ?_, ?_, fun i ne => ?_, ?_⟩
  · rw [pixels, List.length_set, len]
  · rw [pixels, List.getElem?_set_self lt]
  · rw [pixels, List.getElem?_set_ne ne.symm]
  · rw [record]
    exact wipeAdvance_cursor atPixel

/-- Settles O48: every pixel is the colour scaled by the cursor, and the record takes one step in its direction. -/
theorem pulseFrame : Obligations.PulseFrame := by
  unfold Obligations.PulseFrame
  intro h r g b speed s sl hs due nonneg le
  obtain ⟨t, u, done, chan, pixels, record⟩ :=
    exists_frame_of_due (x := ⟨0, r, g, b, 0⟩) (E := .pulse) (b := frameOf _ _) nofun hs due rfl
  refine ⟨t, u, done, chan, by rw [pixels, frameOf_length], fun p hp => ?_, ?_, by rw [record]; rfl⟩
  · rw [pixels] at hp
    obtain ⟨-, rfl⟩ := mem_frameOf hp
    exact ⟨pulseScale_toNat r nonneg le, pulseScale_toNat g nonneg le, pulseScale_toNat b nonneg le⟩
  · rw [record, ← Dir.step_eq_ite]
    rfl

/-- Settles O49: every pixel is the primary that the cursor chooses. -/
theorem flashFrame : Obligations.FlashFrame := by
  unfold Obligations.FlashFrame
  intro h v speed s sl hs due _ _
  obtain ⟨t, u, done, chan, pixels, record⟩ :=
    exists_frame_of_due (x := ⟨0, 0, 0, 0, v⟩) (E := .flash) (b := frameOf _ _) nofun hs due rfl
  refine ⟨t, u, done, chan, by rw [pixels, frameOf_length], fun p hp => ?_, by rw [record]; rfl⟩
  rw [pixels] at hp
  obtain ⟨-, rfl⟩ := mem_frameOf hp
  exact ⟨fun c => by rw [c]; rfl, fun c => by rw [c]; rfl, fun c => by rw [c]; rfl⟩

end HostScheduler

end Sys2Proof.Machine
end

section
/-! PROOFS. The statements of 46_host_scheduler.md on runs of due calls: COLOR_WIPE lights the whole strip (R129), and PULSE
goes up and down (R130). -/

namespace Sys2Proof.Machine

/-! ### Due calls in a row -/

theorem repeatExec_succ_eq_bind (i : Instr) (k : Nat) (s : State) :
    repeatExec i (k + 1) s = (repeatExec i k s).bind fun t => nextOf (exec i t) := by
  induction k generalizing s with
  | zero => simp [repeatExec]
  | succ k ih =>
    rw [repeatExec, repeatExec, Option.bind_assoc]
    exact congrArg _ (funext ih)

/-- Calls at speed 0 are all due (R117): they complete, and what each frame and advance carries on from a number of calls
to the next holds after every number of them. -/
theorem repeatExec_effectInstr {E : Effect} {h : Handle} {x : EffectArgs} {P : Nat → Slot → AnimRec → Prop}
    (runs : effectRuns x E)
    (next : ∀ k u a, P k u a → ∀ last : Word,
      P (k + 1) (u.withPixels (E.frame x u a.cursor)) (E.advance u.pixelCount.toNat { a with last := last }))
    {s : State} {sl : Slot} (hs : s.channel? h = some sl) (start : P 0 sl (s.animOf h E)) (k : Nat) :
    ∃ t u, repeatExec (effectInstr h x 0 E) k s = some t ∧ t.channel? h = some u ∧ P k u (t.animOf h E) := by
  induction k with
  | zero => exact ⟨s, sl, rfl, hs, start⟩
  | succ k ih =>
    obtain ⟨t, u, run, chan, holds⟩ := ih
    obtain ⟨t', done, chan', -, record, -⟩ := exec_effectInstr_of_due (speed := 0) runs chan (Nat.zero_le _)
    refine ⟨t', _, ?_, chan', record ▸ next k u _ holds t.tick⟩
    rw [repeatExec_succ_eq_bind, run, Option.bind_some, done, nextOf]

/-! ### COLOR_WIPE -/

/-- A strip after `k` due calls of COLOR_WIPE from its start (R129). -/
structure WipedTo (color : Pixel) (sl : Slot) (k : Nat) (u : Slot) (a : AnimRec) : Prop where
  descriptor : u.descriptor = sl.descriptor
  lit : ∀ i, i < k → u.pixels[i]? = some color
  unlit : ∀ i, k ≤ i → u.pixels[i]? = sl.pixels[i]?
  cursor : a.cursor = if k = sl.pixelCount.toNat then 0 else k

/-- One more call lights the next pixel (R128). -/
theorem WipedTo.succ {color : Pixel} {sl u : Slot} {k : Nat} {a : AnimRec} (w : WipedTo color sl k u a)
    (len : sl.pixels.length = sl.pixelCount.toNat) (lt : k < sl.pixelCount.toNat) (last : Word) :
    WipedTo color sl (k + 1) (u.withPixels (wipeFrame color u a.cursor))
      (wipeAdvance u.pixelCount.toNat { a with last := last }) := by
  obtain ⟨descriptor, lit, unlit, cursor⟩ := w
  have count : u.pixelCount = sl.pixelCount := by
    simp only [Slot.descriptor, Prod.mk.injEq] at descriptor
    obtain ⟨-, -, -, count, -, -⟩ := descriptor
    exact count
  have atPixel : wipeCursor u.pixelCount.toNat a.cursor = k := by
    rw [cursor, if_neg lt.ne, count, wipeCursor, if_neg (by omega)]
  have onStrip : k < u.pixels.length := by
    have unlitNow := (unlit k le_rfl).trans (List.getElem?_eq_getElem (len.symm ▸ lt))
    exact (List.getElem?_eq_some_iff.1 unlitNow).1
  refine ⟨descriptor, fun i hi => ?_, fun i hi => ?_, ?_⟩
  · rw [Slot.pixels_withPixels, wipeFrame_eq_set atPixel]
    rcases Nat.lt_succ_iff_lt_or_eq.1 hi with lower | rfl
    · rw [List.getElem?_set_ne lower.ne', lit i lower]
    · rw [List.getElem?_set_self onStrip]
  · rw [Slot.pixels_withPixels, wipeFrame_eq_set atPixel, List.getElem?_set_ne (by omega)]
    exact unlit i (by omega)
  · rw [wipeAdvance_cursor (a := { a with last := last }) atPixel, count]
    norm_cast

/-- Settles O50: each of the first calls lights one more pixel, for as long as there is a next one. -/
theorem colorWipeLightsWholeStrip : Obligations.ColorWipeLightsWholeStrip := by
  unfold Obligations.ColorWipeLightsWholeStrip
  intro h r g b s sl w hs zero k le
  obtain ⟨-, len⟩ := Memory.pixels_of_channel? w hs
  have start : WipedTo ⟨r, g, b⟩ sl 0 sl (s.animOf h .colorWipe) :=
    ⟨rfl, fun i hi => absurd hi (Nat.not_lt_zero i), fun _ _ => rfl, by simp [zero]⟩
  obtain ⟨t, u, run, chan, wiped⟩ := repeatExec_effectInstr (E := .colorWipe) (x := ⟨0, r, g, b, 0⟩)
    (P := fun k u a => k ≤ sl.pixelCount.toNat → WipedTo ⟨r, g, b⟩ sl k u a) nofun
    (fun k u a wiped last le => (wiped (Nat.le_of_succ_le le)).succ len le last) hs (fun _ => start) k
  obtain ⟨descriptor, lit, unlit, cursor⟩ := wiped le
  exact ⟨t, u, run, chan, descriptor, lit, unlit, cursor⟩

/-! ### PULSE -/

/-- PULSE's record after `k` due calls from its start: up to 255 and down again, in 510 calls (R130). -/
def PulsedTo (k : Nat) (a : AnimRec) : Prop :=
  a.cursor = (if k % 510 ≤ 255 then ((k % 510 : Nat) : Int) else 510 - (k % 510 : Nat)) ∧
    a.dir = if k % 510 < 255 then .up else .down

/-- Upwards PULSE's cursor rises by one, and the direction turns at 255 (R130). -/
theorem pulseAdvance_of_up (n : Nat) {a : AnimRec} (up : a.dir = .up) (nonneg : 0 ≤ a.cursor) :
    (pulseAdvance n a).cursor = a.cursor + 1 ∧ (pulseAdvance n a).dir = if a.cursor + 1 = 255 then .down else .up := by
  have ne : a.cursor + 1 ≠ 0 := by omega
  simp [pulseAdvance, up, Dir.step, ne]

/-- Downwards PULSE's cursor falls by one, and the direction turns at 0 (R130). -/
theorem pulseAdvance_of_down (n : Nat) {a : AnimRec} (down : a.dir = .down) (le : a.cursor ≤ 255) :
    (pulseAdvance n a).cursor = a.cursor - 1 ∧ (pulseAdvance n a).dir = if a.cursor - 1 = 0 then .up else .down := by
  have ne : a.cursor + -1 ≠ 255 := by omega
  simp [pulseAdvance, down, Dir.step, ne, Int.sub_eq_add_neg]

/-- One more call goes one step on in the 510 (R130). -/
theorem PulsedTo.succ {k : Nat} {a : AnimRec} (p : PulsedTo k a) (n : Nat) : PulsedTo (k + 1) (pulseAdvance n a) := by
  obtain ⟨cursor, dir⟩ := p
  by_cases up : k % 510 < 255
  · rw [if_pos up.le] at cursor
    rw [if_pos up] at dir
    obtain ⟨cursor', dir'⟩ := pulseAdvance_of_up n dir (by omega)
    refine ⟨?_, ?_⟩
    · rw [cursor', cursor]
      split <;> omega
    · rw [dir', ← ite_not]
      exact if_congr (by omega) rfl rfl
  · have cursor : a.cursor = 510 - (k % 510 : Nat) := by rw [cursor]; split <;> omega
    rw [if_neg up] at dir
    obtain ⟨cursor', dir'⟩ := pulseAdvance_of_down n dir (by omega)
    refine ⟨?_, ?_⟩
    · rw [cursor', cursor]
      split <;> omega
    · rw [dir']
      exact if_congr (by omega) rfl rfl

/-- Settles O51: every call goes one step on, whatever the strip shows. -/
theorem pulsePingPongs : Obligations.PulsePingPongs := by
  unfold Obligations.PulsePingPongs
  intro h r g b s sl hs zero up k
  obtain ⟨t, -, run, -, cursor, -⟩ := repeatExec_effectInstr (E := .pulse) (x := ⟨0, r, g, b, 0⟩)
    (P := fun k _ a => PulsedTo k a) nofun
    (fun k u a p last => PulsedTo.succ (a := { a with last := last }) p u.pixelCount.toNat) hs ⟨zero, up⟩ k
  exact ⟨t, run, cursor⟩

end Sys2Proof.Machine
end

section
/-! PROOFS. The statements of 60_exceptions.md: what a fault writes (R145), a command that never ends (R143, U24), and the
commands on a handle that names no channel (R136). -/

namespace Sys2Proof.Machine

/-! ### Faults -/

/-- Of all a command can do, only a fault records one as its outcome, and it writes nothing besides the mark (R145). -/
theorem Did.eq_raiseFault {s t : State} {i : Instr} {f : Fault} (d : Did s i t) (hf : t.result = .fault f) :
    t = s.raiseFault f := by
  cases d with
  | returned _ nofault => exact absurd hf (nofault f)
  | faulted g =>
    cases hf
    rfl
  | released _ _ _ _ _ _ _ _ _ _ | configured _ _ _ _ _ _ _ _ _ _ | wrote _ _ _ _ _ _ _ | filled _ _ _ _ _ _
  | sent _ _ _ _ | sentAll _ | animated _ _ _ _ _ _ _ | ticked _ => simp at hf

/-- Settles O56: a command that ends in a fault has done nothing but raise it. -/
theorem faultWritesNothingElse : Obligations.FaultWritesNothingElse := by
  unfold Obligations.FaultWritesNothingElse
  intro i s t f e hf
  exact (exec_did e).eq_raiseFault hf

/-! ### A command that never ends -/

/-- The arm of `step` for a command during which the context stalls for ever (U24; notes/assumptions/21.md). -/
theorem step_of_stalled {s taken : State} {c : Command} (hf : s.fetch? = some (.stalled c, taken)) :
    step s = .fault .stuck := by
  simp only [step, hf]

/-- A run stops where its first step faults. -/
theorem run_succ_of_step_fault {M : Host.Core} {s : M.State} {f : M.Fault} (e : M.step s = .fault f) (k : Nat) :
    M.run (k + 1) s = .fault f := by
  simp only [Host.Core.run, e]

/-- Settles O6: the first step faults, and with it every run that takes a step. -/
theorem stepSticksInEndlessStall : Obligations.StepSticksInEndlessStall := by
  unfold Obligations.StepSticksInEndlessStall
  intro s c rest hp
  have stuck : step s = .fault .stuck := step_of_stalled (State.fetch?_of_pending hp)
  exact ⟨stuck, run_succ_of_step_fault (M := Sys2Proof.core) stuck⟩

/-! ### A handle that names no channel -/

section InvalidHandle

variable {s : State} {h : Handle} (hs : s.channel? h = none)
include hs

theorem State.valid_of_none : s.valid h = false := by simp [State.valid, hs]

theorem exec_lookup_of_none : exec (.lookup h) s = .next (s.returns (.channel none)) := by
  simp [exec, execLookup, State.valid_of_none hs]

/-- The common contract of the effects returns first of all on such a handle (step 1 of R118). -/
theorem State.runEffect_of_none (E : Effect) (speed : Word) (frame : Slot → Int → Buffer)
    (advance : Nat → AnimRec → AnimRec) : s.runEffect E h speed frame advance = s.returns .nothing := by
  simp only [State.runEffect, hs]

/-- An effect on such a handle only returns, whatever its operands: a zero width faults on a valid handle only (R126). -/
theorem exec_effectInstr_of_none (x : EffectArgs) (speed : Word) (E : Effect) :
    exec (effectInstr h x speed E) s = .next (s.returns .nothing) := by
  rcases exec_effectInstr_cases h x speed E s with ⟨valid, -⟩ | e
  · simp [State.valid_of_none hs] at valid
  · rw [e, State.runEffect_of_none hs]

end InvalidHandle

/-- Settles O25: each command asks first whether its handle names a channel, and CONFIGURE whether it names a slot. -/
theorem invalidHandleIsNoOp : Obligations.InvalidHandleIsNoOp := by
  unfold Obligations.InvalidHandleIsNoOp
  intro h s hs
  have fill (c : Pixel) : (.next (s.fill h c) : Host.Outcome State Fault Refusal) = .next (s.returns .nothing) :=
    congrArg Host.Outcome.next (State.fillWith_of_none hs Config.fillSends c)
  exact ⟨exec_lookup_of_none hs, exec_getLedCount_of_none hs, exec_getBuffer_of_none hs, fill _, fill _, fill _, fill _,
    fun _ _ _ => fill _, exec_encodeAndSend_of_none hs, exec_effectInstr_of_none hs,
    fun absent pin _ br => congrArg Host.Outcome.next (State.configureWith_of_rejected pin br _ (.inl absent))⟩

end Sys2Proof.Machine
end

section
/-! PROOFS. The statements of 70_reset_and_hazards.md: the state after reset (R152), a block with no command (R153), and
the real durations: their draws (R162), the timing premise (R163) and the period of a symbol (R164). -/

namespace Sys2Proof.Machine

/-! ### The duration of a segment -/

/-- The duration of every class but `IDLE` is the sum of its three draws (R162). -/
theorem durationWith_of_ne_idle (T : Timing) (D : Draws) (k : Nat) (l : Level) {c : SegClass} (ne : c ≠ .idle) :
    durationWith T D k l c = calibrated T D k c + overhead T D k l c + stallOf D k := by
  cases c with
  | idle => exact absurd rfl ne
  | short | long | latch => rfl

/-- Only the low segment of a symbol has an overhead (R162, D49). -/
theorem overhead_eq_zero (T : Timing) (D : Draws) (k : Nat) {l : Level} {c : SegClass} (h : l = .high ∨ c = .latch) :
    overhead T D k l c = 0 := by
  rcases h with rfl | rfl
  · rfl
  · cases l <;> rfl

/-! ### Every combination of draws occurs -/

theorem within_eq_self {lo hi x : Time} (ge : lo ≤ x) (le : x ≤ hi) : within lo hi x = x := by
  rw [within, min_eq_right le, max_eq_right ge]

/-- A calibration draw that is not negative and within the tolerance is the interval itself (R162). -/
theorem calibrated_eq_interval {T : Timing} {D : Draws} {k : Nat} {c : SegClass} (nonneg : 0 ≤ D.interval k)
    (ge : c.nominal T - T.tol ≤ D.interval k) (le : D.interval k ≤ c.nominal T + T.tol) :
    calibrated T D k c = D.interval k := by
  rw [calibrated, within_eq_self ge le, max_eq_right nonneg]

/-- An overhead draw up to the greatest gap is the overhead itself, where there is one (R162). -/
theorem overhead_eq_draw {T : Timing} {D : Draws} {k : Nat} {l : Level} {c : SegClass} (ne : c ≠ .idle)
    (nonneg : 0 ≤ D.overhead k) (le : D.overhead k ≤ T.tGapMax) (zero : l = .high ∨ c = .latch → D.overhead k = 0) :
    overhead T D k l c = D.overhead k := by
  cases l with
  | high => exact (zero (.inl rfl)).symm
  | low =>
    cases c with
    | short | long => exact within_eq_self nonneg le
    | latch => exact (zero (.inr rfl)).symm
    | idle => exact absurd rfl ne

/-- The draws that give every segment the same interval, overhead, stall and low interval between commands. -/
def constantDraws (interval overhead stall idle : Time) : Draws :=
  ⟨fun _ => interval, fun _ => overhead, fun _ => stall, fun _ => idle⟩

theorem stallOf_constantDraws {interval overhead stall idle : Time} (nonneg : 0 ≤ stall) (k : Nat) :
    stallOf (constantDraws interval overhead stall idle) k = stall := max_eq_right nonneg

/-- Settles O32: the draws are kept within their bounds, and draws within the bounds are kept as they are. -/
theorem segmentDurationIsDraws : Obligations.SegmentDurationIsDraws := by
  unfold Obligations.SegmentDurationIsDraws
  intro T k l c
  refine ⟨fun ne D => ?_, fun ne t o st nonneg ge le gap_nonneg gap_le zero stall_nonneg => ?_, fun x nonneg => ?_⟩
  · obtain ⟨-, ge, le⟩ := calibrated_bounds T D k c (c.nominal_nonneg T)
    obtain ⟨gap_nonneg, gap_le⟩ := overhead_bounds T D k l c
    exact ⟨_, _, durationWith_of_ne_idle T D k l ne, ge, le, gap_nonneg, gap_le, overhead_eq_zero T D k,
      stallOf_nonneg D k⟩
  · have interval : calibrated T (constantDraws t o st 0) k c = t := calibrated_eq_interval nonneg ge le
    have gap : overhead T (constantDraws t o st 0) k l c = o := overhead_eq_draw ne gap_nonneg gap_le zero
    have stall : stallOf (constantDraws t o st 0) k = st := stallOf_constantDraws stall_nonneg k
    refine ⟨constantDraws t o st 0, ?_, stall⟩
    rw [segmentWith, durationWith_of_ne_idle T _ k l ne, interval, gap, stall]
  · exact ⟨constantDraws 0 0 0 x, max_eq_right nonneg⟩

/-! ### Durations without a stall -/

section Unstalled

variable {T : Timing} {D : Draws} {k : Nat} (quiet : stallOf D k = 0)
include quiet

/-- Without a stall a segment is longer than its nominal interval by at most the tolerance and its overhead (R162). -/
theorem durationWith_le_of_unstalled (l : Level) {c : SegClass} (ne : c ≠ .idle) :
    durationWith T D k l c ≤ c.nominal T + T.tol + overhead T D k l c := by
  obtain ⟨-, -, le⟩ := calibrated_bounds T D k c (c.nominal_nonneg T)
  rw [durationWith_of_ne_idle T D k l ne, quiet]
  linarith

/-- Without a stall a high segment is longer than its nominal interval by at most the tolerance (R162). -/
theorem durationWith_high_le_of_unstalled {c : SegClass} (ne : c ≠ .idle) :
    durationWith T D k .high c ≤ c.nominal T + T.tol := by
  have le := durationWith_le_of_unstalled (T := T) quiet .high ne
  rwa [overhead_eq_zero T D k (.inl rfl), add_zero] at le

/-- Without a stall a low segment is longer than its nominal interval by at most the tolerance and the greatest gap
(R162). -/
theorem durationWith_low_le_of_unstalled {c : SegClass} (ne : c ≠ .idle) :
    durationWith T D k .low c ≤ c.nominal T + T.tol + T.tGapMax := by
  have le := durationWith_le_of_unstalled (T := T) quiet .low ne
  obtain ⟨-, gap_le⟩ := overhead_bounds T D k .low c
  linarith

/-! ### The timing premise -/

/-- Without a stall a short segment is in time: a high one stays under the middle of the two intervals, a low one under
the strip's threshold (R163). -/
theorem segmentInTime_short_of_unstalled (l : Level) (tol : T.tol < (T.tLong - T.tShort) / 2)
    (gap : T.tLong + T.tol + T.tGapMax < T.tResetMin) : segmentInTime T (segmentWith T D k l .short) := by
  have shorter := T.short_lt_long
  cases l with
  | high =>
    have le : durationWith T D k .high .short ≤ T.tShort + T.tol := durationWith_high_le_of_unstalled quiet nofun
    show durationWith T D k .high .short < (T.tShort + T.tLong) / 2
    linarith
  | low =>
    have le : durationWith T D k .low .short ≤ T.tShort + T.tol + T.tGapMax :=
      durationWith_low_le_of_unstalled quiet nofun
    show durationWith T D k .low .short < T.tResetMin
    linarith

/-- Without a stall a long segment is in time: a high one stays over the middle of the two intervals, a low one under the
strip's threshold (R163). -/
theorem segmentInTime_long_of_unstalled (l : Level) (tol : T.tol < (T.tLong - T.tShort) / 2)
    (gap : T.tLong + T.tol + T.tGapMax < T.tResetMin) : segmentInTime T (segmentWith T D k l .long) := by
  cases l with
  | high =>
    have ge : T.tLong - T.tol ≤ durationWith T D k .high .long := le_durationWith T D k .high nofun
    show (T.tShort + T.tLong) / 2 < durationWith T D k .high .long
    linarith
  | low =>
    have le : durationWith T D k .low .long ≤ T.tLong + T.tol + T.tGapMax := durationWith_low_le_of_unstalled quiet nofun
    exact le.trans_lt gap

end Unstalled

/-- A frame is made of short and long segments and the low latch (R67, R70). -/
theorem Slot.mem_frame {sl : Slot} {x : Level × SegClass} (h : x ∈ sl.frame) :
    x.2 = .short ∨ x.2 = .long ∨ x = (.low, .latch) := by
  rcases List.mem_append.1 h with h | h
  · obtain ⟨w, -, h⟩ := List.mem_flatMap.1 h
    exact (mem_symbols h).imp_right .inl
  · exact .inr (.inr (List.mem_singleton.1 h))

/-- Settles O34: a segment of the frame is a short one, a long one or the latch, and each is in time. -/
theorem unstalledFrameMeetsPremise : Obligations.UnstalledFrameMeetsPremise := by
  unfold Obligations.UnstalledFrameMeetsPremise
  intro T D k sl tol gap latch quiet g hg
  obtain ⟨i, ⟨l, c⟩, hx, ge, lt, rfl⟩ := mem_segmentsWith hg
  rw [sl.frame_length] at lt
  have quiet : stallOf D i = 0 := quiet i ge lt
  refine ⟨quiet, ?_⟩
  rcases Slot.mem_frame hx with short | long | shape
  · cases short
    exact segmentInTime_short_of_unstalled quiet l tol gap
  · cases long
    exact segmentInTime_long_of_unstalled quiet l tol gap
  · cases shape
    exact latch.trans (le_durationWith T D i .low nofun)

/-! ### The period of a symbol -/

/-- No segment of a symbol is an idle interval (R67). -/
theorem symbolClass_ne_idle (bit : Bool) (φ : Phase) : symbolClass bit φ ≠ .idle := by
  cases bit <;> cases φ <;> nofun

/-- The nominal intervals of a symbol's two segments make up the bit period (R68). -/
theorem nominal_high_add_nominal_low (T : Timing) (bit : Bool) :
    (symbolClass bit .high).nominal T + (symbolClass bit .low).nominal T = T.tBit := by
  rw [← nominalLength_symbol T bit, symbol_eq]
  simp [nominalLength]

/-- A symbol takes the durations of its high segment and of its low one (R67). -/
theorem sum_segmentsWith_symbol (T : Timing) (D : Draws) (k : Nat) (bit : Bool) :
    ((segmentsWith T D k (symbol bit)).map Segment.d).sum =
      durationWith T D k .high (symbolClass bit .high) + durationWith T D (k + 1) .low (symbolClass bit .low) := by
  rw [symbol_eq]
  simp [segmentsWith, segmentWith]

/-- Settles O36: each of the two segments is within the tolerance of its nominal interval, but for the gap after the low
one. -/
theorem realSymbolPeriodIsBounded : Obligations.RealSymbolPeriodIsBounded := by
  unfold Obligations.RealSymbolPeriodIsBounded
  intro T D k bit quietHigh quietLow
  have high := symbolClass_ne_idle bit .high
  have low := symbolClass_ne_idle bit .low
  have high_ge := le_durationWith T D k .high high
  have high_le := durationWith_high_le_of_unstalled (T := T) quietHigh high
  have low_ge := le_durationWith T D (k + 1) .low low
  have low_le := durationWith_low_le_of_unstalled (T := T) quietLow low
  have gap := T.gap_nonneg
  rw [sum_segmentsWith_symbol, ← nominal_high_add_nominal_low T bit, abs_le]
  constructor <;> linarith

/-! ### Reset and waiting -/

/-- Settles O1: the slots are inert ones and the records initial ones, and the other fields stand in the definition. -/
theorem resetLeavesBlockInert : Obligations.ResetLeavesBlockInert := by
  unfold Obligations.ResetLeavesBlockInert
  refine ⟨fun h sl e => ?_, fun p => ⟨rfl, rfl⟩, rfl, rfl, rfl, rfl, State.animOf_reset⟩
  rw [State.eq_inert_of_slot?_reset e]
  exact ⟨rfl, rfl, rfl⟩

/-- With an empty queue there is no command to take (R153; notes/assumptions/1.md). -/
theorem State.fetch?_of_pending_nil {s : State} (hp : s.pending = []) : s.fetch? = none := by
  simp only [State.fetch?, hp]

/-- Settles O7: a step that finds no command to take changes nothing. -/
theorem stepWaitsForCommand : Obligations.StepWaitsForCommand := by
  unfold Obligations.StepWaitsForCommand
  intro s hp
  simp only [step, State.fetch?_of_pending_nil hp]

end Sys2Proof.Machine
end
